-- ==== Sys2Proof/Word.lean ====
section
/-!
DEFINITION. The machine word, the input byte, and the two readings of a bit pattern that rule R8 of
spec/00_scope.md names. Bits are numbered from 0, the least significant, upwards (R7).
-/
namespace Sys2Proof

/-- A byte of a line or of a token (R9: lines and tokens are finite sequences of bytes). -/
abbrev Byte := BitVec 8

/-- The 32-bit word the block packs, and the width of each of its four registers (R6, R23, R70). -/
abbrev Word := BitVec 32

/-- `trunc_n(v)` of R8: the two's-complement bit pattern of the integer `v` in `n` bits. -/
abbrev trunc (n : Nat) (v : Int) : BitVec n := BitVec.ofInt n v

/-- `sext_n(b)` of R8: the pattern `b` read as two's complement. -/
abbrev sext {n : Nat} (b : BitVec n) : Int := b.toInt

end Sys2Proof
end

