-- ==== Sys2Proof/Config.lean ====
section
/-!
DEFINITION. What is fixed for the machine (the parameters of rule R6, spec/00_scope.md), the two
immediate policies, and the two values the spec leaves open: the byte order of a raw four-byte form
(D16) and the wording of a diagnostic's message (R203, U10).
-/
namespace Sys2Proof

/-- The two immediate policies of R24. The choice is a run-time argument held in `CTRL.IMM_MODE`. -/
inductive ImmMode where
  /-- STRICT, code 0: an immediate that does not fit its field is rejected (R92). -/
  | strict
  /-- LEGACY, code 1: an immediate is masked to its field (R93). -/
  | legacy
  deriving DecidableEq, Repr

/-- The values of the parameter RAW_BYTE_ORDER (D16). -/
inductive ByteOrder where
  | little
  | big
  deriving DecidableEq, Repr, Inhabited

namespace Config

/-- LINE_MAX (R6): the most bytes a line inside the interface has, its terminator excluded. -/
def lineMax : Nat := 255

/-- OPERANDS_PER_LINE (R6): every mnemonic takes three operand tokens. -/
def operandsPerLine : Nat := 3

/-- The largest value of the 32-bit ERR_COUNT, where it saturates (R6, R27). -/
def errCountMax : Nat := 2 ^ 32 - 1

/-- RAW_BYTE_ORDER (R6, R54): OPEN in the spec, so it has no value here. The block's own response
does not use it. -/
opaque rawByteOrder : ByteOrder

/-- The wording of a diagnostic's message, rendered by the host from the fields of the record (R203):
kind code, sub-reason code, line number, line text, mnemonic, operand index, token, count. The spec
gives it no text (U10: any value), so it has no body here. -/
opaque messageText :
    Nat × Nat × Word × List Byte × List Byte × Nat × List Byte × Nat → List Byte

end Config
end Sys2Proof
end

