-- ==== Sys2Proof/Syntax.lean ====
section
/-!
DEFINITION. The input language as data: lines, tokens, the seven mnemonics and the instruction, which is
a mnemonic with its three operand tokens ("Any spelling with the same tokens is the same
instruction", R83). Operands stay tokens here because the register decoder and the immediate parser
that read them belong to each instruction's own rule (R150 to R180), which reports the first token
that fails.
-/
namespace Sys2Proof

/-- A line without its terminator (R9, R30). -/
abbrev Line := List Byte

/-- A non-empty run of non-delimiter bytes (R80). -/
abbrev Token := List Byte

/-- A run of delimiter bytes, possibly empty (R80). -/
abbrev Separator := List Byte

/-- The seven mnemonics: "the authoritative definition of 'supported instruction set'" (R2, R79). -/
inductive Mnemonic where
  | lw
  | sw
  | add
  | xor
  | addi
  | sll
  | bne
  deriving DecidableEq, Repr

/-- One constructor per row of spec/opcode_table.json; its arguments are operand tokens 1, 2 and 3 in
the order of R79. -/
inductive Instr where
  /-- `lw rd, offset(rs1)` (R150). -/
  | lw (rd offset rs1 : Token)
  /-- `sw rs2, offset(rs1)` (R151). -/
  | sw (rs2 offset rs1 : Token)
  /-- `add rd, rs1, rs2` (R160). -/
  | add (rd rs1 rs2 : Token)
  /-- `xor rd, rs1, rs2` (R161). -/
  | xor (rd rs1 rs2 : Token)
  /-- `addi rd, rs1, imm` (R170). -/
  | addi (rd rs1 imm : Token)
  /-- `sll rd, rs1, rs2` (R162). -/
  | sll (rd rs1 rs2 : Token)
  /-- `bne rs1, rs2, imm` (R180). -/
  | bne (rs1 rs2 imm : Token)
  deriving DecidableEq, Repr

/-- What an operand token must be (R79, R88). -/
inductive OperandKind where
  /-- REG: a register token (R85). -/
  | reg
  /-- IMM12: a 12-bit signed immediate. -/
  | imm12
  /-- IMMB: the 13-bit signed even branch displacement. -/
  | immB
  deriving DecidableEq, Repr

/-- The mnemonic of an instruction. -/
def Instr.mnemonic : Instr → Mnemonic
  | .lw _ _ _ => .lw
  | .sw _ _ _ => .sw
  | .add _ _ _ => .add
  | .xor _ _ _ => .xor
  | .addi _ _ _ => .addi
  | .sll _ _ _ => .sll
  | .bne _ _ _ => .bne

/-- Operand tokens 1, 2 and 3 of an instruction. -/
def Instr.operands : Instr → List Token
  | .lw a b c => [a, b, c]
  | .sw a b c => [a, b, c]
  | .add a b c => [a, b, c]
  | .xor a b c => [a, b, c]
  | .addi a b c => [a, b, c]
  | .sll a b c => [a, b, c]
  | .bne a b c => [a, b, c]

/-- The instruction of a mnemonic and its three operand tokens (the dispatcher's tagged variant,
R79). -/
def Mnemonic.instr : Mnemonic → Token → Token → Token → Instr
  | .lw => .lw
  | .sw => .sw
  | .add => .add
  | .xor => .xor
  | .addi => .addi
  | .sll => .sll
  | .bne => .bne

end Sys2Proof
end

