-- ==== Sys2Proof/Machine/Response.lean ====
section
/-!
DEFINITION. What a transaction answers: the error kinds and sub-reasons with their codes (R200, R201), the
diagnostic record (R203), the response and the response port (R31), and the two output views of a
word, its MSB-first text (R32) and its raw four-byte form under a byte order (R54).
-/
namespace Sys2Proof

/-- The index of an operand token, 1 to 3; 0 stands for a whole-line error (R203). -/
abbrev OperandIndex := Fin 4

/-- The four error kinds (R200). -/
inductive ErrorKind where
  | unsupportedMnemonic
  | malformedInstruction
  | invalidRegister
  | immediateOutOfRange
  deriving DecidableEq, Repr

/-- The sub-reasons (R200, R201). -/
inductive SubReason where
  /-- NONE -/
  | noReason
  /-- COUNT -/
  | count
  /-- STRUCTURE -/
  | structureAbsent
  /-- IMM_SYNTAX -/
  | immSyntax
  /-- SYNTAX -/
  | regSyntax
  /-- RANGE -/
  | range
  /-- ODD -/
  | odd
  deriving DecidableEq, Repr

/-- Everything a `raise` of the spec says (R120, R200): one constructor for each legal pair of kind and
sub-reason, with the operand index and the token, or the count, that the raise carries. -/
inductive LineError where
  /-- UnsupportedMnemonic(NONE): the mnemonic token is none of the seven (R123). -/
  | unsupportedMnemonic (m : Token)
  /-- MalformedInstruction(COUNT): `found` operand tokens instead of three (R124). -/
  | operandCount (found : Nat)
  /-- MalformedInstruction(STRUCTURE): `offset(rs1)` is absent (R84, R125). -/
  | structureAbsent
  /-- MalformedInstruction(IMM_SYNTAX): an immediate token is no decimal number (R87). -/
  | immediateSyntax (i : OperandIndex) (t : Token)
  /-- InvalidRegister(SYNTAX): a register token is not `x` and digits (R85). -/
  | registerSyntax (i : OperandIndex) (t : Token)
  /-- InvalidRegister(RANGE): a register index is above 31 (R85). -/
  | registerRange (i : OperandIndex) (t : Token)
  /-- ImmediateOutOfRange(RANGE), strict mode only (R92). -/
  | immediateRange (i : OperandIndex) (t : Token)
  /-- ImmediateOutOfRange(ODD), strict mode and `bne` only (R92). -/
  | immediateOdd (i : OperandIndex) (t : Token)
  deriving DecidableEq, Repr

namespace Machine

/-- The kind of a raise (R200). -/
def errorKind : LineError → ErrorKind
  | .unsupportedMnemonic _ => .unsupportedMnemonic
  | .operandCount _ => .malformedInstruction
  | .structureAbsent => .malformedInstruction
  | .immediateSyntax _ _ => .malformedInstruction
  | .registerSyntax _ _ => .invalidRegister
  | .registerRange _ _ => .invalidRegister
  | .immediateRange _ _ => .immediateOutOfRange
  | .immediateOdd _ _ => .immediateOutOfRange

/-- The sub-reason of a raise (R200). -/
def errorSub : LineError → SubReason
  | .unsupportedMnemonic _ => .noReason
  | .operandCount _ => .count
  | .structureAbsent => .structureAbsent
  | .immediateSyntax _ _ => .immSyntax
  | .registerSyntax _ _ => .regSyntax
  | .registerRange _ _ => .range
  | .immediateRange _ _ => .range
  | .immediateOdd _ _ => .odd

/-- The operand index of a raise: 1 to 3 for an operand error, 0 for a whole-line error (R203). -/
def errorOperand : LineError → OperandIndex
  | .unsupportedMnemonic _ => 0
  | .operandCount _ => 0
  | .structureAbsent => 0
  | .immediateSyntax i _ => i
  | .registerSyntax i _ => i
  | .registerRange i _ => i
  | .immediateRange i _ => i
  | .immediateOdd i _ => i

/-- The offending token of a raise: the mnemonic for UnsupportedMnemonic, empty for COUNT and STRUCTURE
(R203). -/
def errorToken : LineError → Token
  | .unsupportedMnemonic m => m
  | .operandCount _ => []
  | .structureAbsent => []
  | .immediateSyntax _ t => t
  | .registerSyntax _ t => t
  | .registerRange _ t => t
  | .immediateRange _ t => t
  | .immediateOdd _ t => t

/-- The count of a raise: the number of operand tokens found for COUNT, else 0 (R203). -/
def errorCount : LineError → Nat
  | .operandCount n => n
  | .unsupportedMnemonic _ => 0
  | .structureAbsent => 0
  | .immediateSyntax _ _ => 0
  | .registerSyntax _ _ => 0
  | .registerRange _ _ => 0
  | .immediateRange _ _ => 0
  | .immediateOdd _ _ => 0

end Machine

/-- The diagnostic record of an error response (R203). -/
structure Diagnostic where
  kind : ErrorKind
  sub : SubReason
  lineNo : Word
  line : Line
  mnemonic : Token
  operand : OperandIndex
  token : Token
  count : Nat
  deriving DecidableEq, Repr

/-- A response is exactly one of these three (R31). -/
inductive Response where
  | word (w : Word)
  | skip
  | error (d : Diagnostic)
  deriving DecidableEq, Repr

namespace Machine

/-- The diagnostic that R203 builds from a raise, the line number, the line and the mnemonic token. -/
def diagnosticOf (e : LineError) (ln : Word) (line : Line) (m : Token) : Diagnostic where
  kind := errorKind e
  sub := errorSub e
  lineNo := ln
  line := line
  mnemonic := m
  operand := errorOperand e
  token := errorToken e
  count := errorCount e

/-- RESP_CODE of an error kind (R201). -/
def kindCode : ErrorKind → Nat
  | .unsupportedMnemonic => 2
  | .malformedInstruction => 3
  | .invalidRegister => 4
  | .immediateOutOfRange => 5

/-- SUB code of a sub-reason (R201). -/
def subCode : SubReason → Nat
  | .noReason => 0
  | .count => 1
  | .structureAbsent => 2
  | .immSyntax => 3
  | .regSyntax => 4
  | .range => 5
  | .odd => 6

/-- Whether a response is an error response, the ones ERR_COUNT counts (R27). -/
def isError : Response → Bool
  | .word _ => false
  | .skip => false
  | .error _ => true

/-- RESP_CODE on the response port (R31, R201). -/
def respCode : Response → Nat
  | .word _ => 0
  | .skip => 1
  | .error d => kindCode d.kind

/-- RESP_WORD on the response port: the word when RESP_CODE is 0, else 0 (R31). -/
def respWord : Response → Word
  | .word w => w
  | .skip => 0
  | .error _ => 0

/-- The SUB code that goes with a response; NONE for WORD and SKIP (R201). -/
def respSub : Response → Nat
  | .word _ => subCode .noReason
  | .skip => subCode .noReason
  | .error d => subCode d.sub

/-- The diagnostic on the response port, if the response has one (R31). -/
def respDiagnostic : Response → Option Diagnostic
  | .word _ => none
  | .skip => none
  | .error d => some d

/-- What the diagnostic sink takes: "(mnemonic, line number, message)" (R203). The message is the
host's text, an open value (U10). -/
def sinkTriple (d : Diagnostic) : Token × Word × List Byte :=
  (d.mnemonic, d.lineNo,
    Config.messageText (kindCode d.kind, subCode d.sub, d.lineNo, d.line, d.mnemonic, d.operand.val,
      d.token, d.count))

/-- `render(w)` of R32: 32 bytes `'1'` or `'0'`, most significant bit first. -/
def render (w : Word) : List Byte :=
  (List.range 32).map fun j => if w.getLsbD (31 - j) then 0x31#8 else 0x30#8

/-- The raw four-byte form of a word under a byte order (R54). -/
def rawBytesIn (o : ByteOrder) (w : Word) : List Byte :=
  let little := [w.extractLsb' 0 8, w.extractLsb' 8 8, w.extractLsb' 16 8, w.extractLsb' 24 8]
  match o with
  | .little => little
  | .big => little.reverse

/-- The raw four-byte form under the OPEN parameter RAW_BYTE_ORDER (R54, D16). -/
def rawBytes (w : Word) : List Byte :=
  rawBytesIn Config.rawByteOrder w

end Machine
end Sys2Proof
end

