-- ==== Sys2Proof/Machine/Operands.lean ====
section
/-!
DEFINITION. The operand stages: the register decoder (R85), the immediate parser (R87), the immediate
validator under either policy (R90, R92, R93), and the four operand shapes of R79, each resolved in
operand order 1, 2, 3 with the first failing operand ending the line (R126).
-/
namespace Sys2Proof.Machine

/-- `'0'..'9'` (R9). -/
def isDigit (c : Byte) : Bool := decide (0x30#8 ≤ c) && decide (c ≤ 0x39#8)

/-- The value of a run of decimal digits, most significant first (R55); unbounded, leading zeros
allowed. -/
def decimalValue (ds : List Byte) : Nat :=
  ds.foldl (fun n d => 10 * n + (d.toNat - 0x30)) 0

/-- One or more decimal digits. -/
def isNumeral (ds : List Byte) : Bool := !ds.isEmpty && ds.all isDigit

/-- `RegDecode(t, i)` of R85: `x` and one or more digits, with a value of at most 31. The index is never
truncated, and the check has no switch (D7). -/
def regDecode (i : OperandIndex) (t : Token) : Except LineError (BitVec 5) :=
  match t with
  | [] => .error (.registerSyntax i t)
  | c :: ds =>
    if c = 0x78#8 ∧ isNumeral ds = true then
      if decimalValue ds ≤ 31 then .ok (BitVec.ofNat 5 (decimalValue ds))
      else .error (.registerRange i t)
    else .error (.registerSyntax i t)

/-- The sign and the digits of an immediate token (R87). -/
def splitSign (t : Token) : Int × Token :=
  match t with
  | [] => (1, [])
  | c :: ds => if c = 0x2D#8 then (-1, ds) else if c = 0x2B#8 then (1, ds) else (1, t)

/-- `ImmParse(t, i)` of R87: an optional sign and one or more decimal digits, read as an unbounded
integer. -/
def immParse (i : OperandIndex) (t : Token) : Except LineError Int :=
  if isNumeral (splitSign t).2 then .ok ((splitSign t).1 * (decimalValue (splitSign t).2 : Int))
  else .error (.immediateSyntax i t)

/-- `StrictCheck(IMM12, …)` of R92. -/
def strictCheck12 (i : OperandIndex) (t : Token) (v : Int) : Except LineError Unit :=
  if -2048 ≤ v ∧ v ≤ 2047 then .ok () else .error (.immediateRange i t)

/-- `StrictCheck(IMMB, …)` of R92: the range first, then evenness. -/
def strictCheckB (i : OperandIndex) (t : Token) (v : Int) : Except LineError Unit :=
  if -4096 ≤ v ∧ v ≤ 4095 then
    if v % 2 = 0 then .ok () else .error (.immediateOdd i t)
  else .error (.immediateRange i t)

/-- `Validate(IMM12, …)` of R90: the 12-bit pattern of the value; strict mode checks it first. -/
def validate12 (mode : ImmMode) (i : OperandIndex) (t : Token) (v : Int) :
    Except LineError (BitVec 12) :=
  match mode with
  | .strict => (strictCheck12 i t v).map fun _ => trunc 12 v
  | .legacy => .ok (trunc 12 v)

/-- `Validate(IMMB, …)` of R90: the 13-bit pattern of the value; strict mode checks it first. -/
def validateB (mode : ImmMode) (i : OperandIndex) (t : Token) (v : Int) :
    Except LineError (BitVec 13) :=
  match mode with
  | .strict => (strictCheckB i t v).map fun _ => trunc 13 v
  | .legacy => .ok (trunc 13 v)

/-- An IMM12 operand: parse, then validate (R87 before R90). -/
def imm12Operand (mode : ImmMode) (i : OperandIndex) (t : Token) : Except LineError (BitVec 12) :=
  (immParse i t).bind (validate12 mode i t)

/-- An IMMB operand: parse, then validate (R87 before R90). -/
def immBOperand (mode : ImmMode) (i : OperandIndex) (t : Token) : Except LineError (BitVec 13) :=
  (immParse i t).bind (validateB mode i t)

/-- Three operands in the order 1, 2, 3: the first error ends the line and later operands are not
examined (R126). -/
def inOrder {α β γ : Type} (a : Except LineError α) (b : Except LineError β)
    (c : Except LineError γ) (pack : α → β → γ → Word) : Except LineError Word :=
  match a with
  | .error e => .error e
  | .ok x =>
    match b with
    | .error e => .error e
    | .ok y =>
      match c with
      | .error e => .error e
      | .ok z => .ok (pack x y z)

/-- REG, REG, REG: `add`, `xor`, `sll`. The mode is never read (R160). -/
def regRegReg (t1 t2 t3 : Token) (pack : BitVec 5 → BitVec 5 → BitVec 5 → Word) :
    Except LineError Word :=
  inOrder (regDecode 1 t1) (regDecode 2 t2) (regDecode 3 t3) pack

/-- REG, IMM12, REG: `lw`, `sw`. -/
def regImmReg (mode : ImmMode) (t1 t2 t3 : Token) (pack : BitVec 5 → BitVec 12 → BitVec 5 → Word) :
    Except LineError Word :=
  inOrder (regDecode 1 t1) (imm12Operand mode 2 t2) (regDecode 3 t3) pack

/-- REG, REG, IMM12: `addi`. -/
def regRegImm (mode : ImmMode) (t1 t2 t3 : Token) (pack : BitVec 5 → BitVec 5 → BitVec 12 → Word) :
    Except LineError Word :=
  inOrder (regDecode 1 t1) (regDecode 2 t2) (imm12Operand mode 3 t3) pack

/-- REG, REG, IMMB: `bne`. -/
def regRegBranch (mode : ImmMode) (t1 t2 t3 : Token)
    (pack : BitVec 5 → BitVec 5 → BitVec 13 → Word) : Except LineError Word :=
  inOrder (regDecode 1 t1) (regDecode 2 t2) (immBOperand mode 3 t3) pack

end Sys2Proof.Machine
end

