-- ==== Sys2Proof/Decode.lean ====
section
/-!
DEFINITION. The two readings of an instruction.

The first is the machine's own, from the bytes of a line (R80 to R84, R120 to R125): the tokenizer, the
line classes, the dispatcher and the structure check. It is total on any bytes and rejects by name.

The second goes from a 32-bit word back to the instruction whose line packs into it. The block has no
such decoder (R5, U9); it is the inverse that R94 states field by field, kept here so that
`decodeTableWord` can name a row's instruction, and nothing in the machine's step reads it. The
encoder after it is driven by the match words and field places of spec/opcode_table.json alone, and
shares no packing code with the meanings.
-/
namespace Sys2Proof

/-! ### From a line -/

/-- The delimiter set of R80: space, comma, tab, `(` and `)`. -/
def isDelimiter (c : Byte) : Bool :=
  c == 0x20#8 || c == 0x2C#8 || c == 0x09#8 || c == 0x28#8 || c == 0x29#8

/-- Whitespace for the comment test is space and tab only (R81). -/
def isBlank (c : Byte) : Bool := c == 0x20#8 || c == 0x09#8

/-- A comment line: its first byte that is no space and no tab is `#` (R81). -/
def isComment : Line → Bool
  | [] => false
  | c :: cs => if isBlank c then isComment cs else c == 0x23#8

/-- A line taken apart (R80): `sep[0]`, then each token with the separator run that follows it. -/
structure SplitLine where
  lead : Separator
  parts : List (Token × Separator)
  deriving DecidableEq, Repr

/-- Put one more byte in front of a line that is already taken apart. -/
def SplitLine.push (c : Byte) (s : SplitLine) : SplitLine :=
  if isDelimiter c then { s with lead := c :: s.lead }
  else
    match s.lead, s.parts with
    | [], (t, sep) :: more => { lead := [], parts := (c :: t, sep) :: more }
    | [], [] => { lead := [], parts := [([c], [])] }
    | d :: lead, parts => { lead := [], parts := ([c], d :: lead) :: parts }

/-- The tokenizer of R80. -/
def tokenize : Line → SplitLine
  | [] => { lead := [], parts := [] }
  | c :: cs => (tokenize cs).push c

/-- The bytes of each mnemonic, lowercase (R79, R83). -/
def Mnemonic.text : Mnemonic → Token
  | .lw => [0x6C#8, 0x77#8]
  | .sw => [0x73#8, 0x77#8]
  | .add => [0x61#8, 0x64#8, 0x64#8]
  | .xor => [0x78#8, 0x6F#8, 0x72#8]
  | .addi => [0x61#8, 0x64#8, 0x64#8, 0x69#8]
  | .sll => [0x73#8, 0x6C#8, 0x6C#8]
  | .bne => [0x62#8, 0x6E#8, 0x65#8]

/-- Every mnemonic, in the order of R79. -/
def Mnemonic.all : List Mnemonic := [.lw, .sw, .add, .xor, .addi, .sll, .bne]

/-- The format dispatcher: the mnemonic token compared byte for byte with the closed table (R79). -/
def dispatch (m : Token) : Option Mnemonic :=
  Mnemonic.all.find? fun x => x.text == m

/-- The mnemonics whose line needs the `offset(rs1)` structure (R84, R125). -/
def needsStructure : Mnemonic → Bool
  | .lw => true
  | .sw => true
  | .add => false
  | .xor => false
  | .addi => false
  | .sll => false
  | .bne => false

/-- The structure check of R84: the only `(` stands in `sep[3]`, the only `)` in `sep[4]`. -/
def structureOk (line : Line) (sep3 sep4 : Separator) : Bool :=
  line.count 0x28#8 == 1 && sep3.contains 0x28#8 && (line.count 0x29#8 == 1 && sep4.contains 0x29#8)

/-- What the front end makes of a line. -/
inductive DecodedLine where
  /-- A comment or blank line (R121, R122). -/
  | skip
  /-- A line that is rejected before any operand is read, with its mnemonic token (R123 to R125). -/
  | rejected (mnemonic : Token) (e : LineError)
  /-- An instruction: its operands are still to be resolved. -/
  | instr (i : Instr)
  deriving DecidableEq, Repr

/-- The operand tokens and separators of a known mnemonic: the count check (R124), then the structure
check of `lw` and `sw` (R125). -/
def decodeOperands (line : Line) (m : Mnemonic) (ops : List (Token × Separator)) : DecodedLine :=
  match ops with
  | [(t1, _), (t2, sep3), (t3, sep4)] =>
    if needsStructure m && !structureOk line sep3 sep4 then .rejected m.text .structureAbsent
    else .instr (m.instr t1 t2 t3)
  | _ => .rejected m.text (.operandCount ops.length)

/-- The front end of `Encode` (R120): comment, blank, dispatch, count, structure, in that order. -/
def decodeLine (line : Line) : DecodedLine :=
  if isComment line then .skip
  else
    match (tokenize line).parts with
    | [] => .skip
    | (m, _) :: ops =>
      match dispatch m with
      | none => .rejected m (.unsupportedMnemonic m)
      | some x => decodeOperands line x ops

/-- R30: a line is inside the interface if it has at most 255 bytes and neither 0x0A nor 0x00. -/
def lineInInterface (line : Line) : Bool :=
  decide (line.length ≤ Config.lineMax) && !line.contains 0x0A#8 && !line.contains 0x00#8

/-! ### Canonical text -/

/-- The ASCII code of a decimal digit (R9). -/
def digitByte (n : Nat) : Byte := BitVec.ofNat 8 (0x30 + n)

/-- Decimal digits of `n` in front of `acc`, at most `fuel` of them. -/
def digitsOnto : Nat → Nat → List Byte → List Byte
  | 0, _, acc => acc
  | fuel + 1, n, acc =>
    if n / 10 = 0 then digitByte (n % 10) :: acc
    else digitsOnto fuel (n / 10) (digitByte (n % 10) :: acc)

/-- The decimal numeral of `n`, without leading zeros. -/
def decimal (n : Nat) : List Byte := digitsOnto (n + 1) n []

/-- The register token `x<n>` (R21). -/
def regToken (r : BitVec 5) : Token := 0x78#8 :: decimal r.toNat

/-- The immediate token of an integer: a `-` if it is negative, then its decimal numeral (R87). -/
def immToken (v : Int) : Token :=
  if v < 0 then 0x2D#8 :: decimal v.natAbs else decimal v.natAbs

/-- The canonical text of an instruction (R83): `m a, b, c`, and `m a, b(c)` for `lw` and `sw`. -/
def renderLine (i : Instr) : Line :=
  match i.operands with
  | [a, b, c] =>
    if needsStructure i.mnemonic then
      i.mnemonic.text ++ [0x20#8] ++ a ++ [0x2C#8, 0x20#8] ++ b ++ [0x28#8] ++ c ++ [0x29#8]
    else
      i.mnemonic.text ++ [0x20#8] ++ a ++ [0x2C#8, 0x20#8] ++ b ++ [0x2C#8, 0x20#8] ++ c
  | _ => i.mnemonic.text

/-! ### From a word -/

/-- Where one slice of an operand's pattern goes in the word: bits `lo + width - 1` to `lo` of operand
`operand` (0, 1, 2 for operands 1, 2, 3), placed at word bit `lsb`. -/
structure Place where
  operand : Fin 3
  lo : Nat
  width : Nat
  lsb : Nat
  deriving DecidableEq, Repr

/-- A row of spec/opcode_table.json: its match and mask words, its operand kinds and its fields. -/
structure Row where
  fixed : Word
  mask : Word
  kinds : List OperandKind
  places : List Place
  deriving DecidableEq, Repr

/-- The seven rows of spec/opcode_table.json. -/
def row : Mnemonic → Row
  | .lw => ⟨0x00002003, 0x0000707F, [.reg, .imm12, .reg], [⟨1, 0, 12, 20⟩, ⟨2, 0, 5, 15⟩, ⟨0, 0, 5, 7⟩]⟩
  | .sw => ⟨0x00002023, 0x0000707F, [.reg, .imm12, .reg],
      [⟨1, 5, 7, 25⟩, ⟨0, 0, 5, 20⟩, ⟨2, 0, 5, 15⟩, ⟨1, 0, 5, 7⟩]⟩
  | .add => ⟨0x00000033, 0xFE00707F, [.reg, .reg, .reg], [⟨2, 0, 5, 20⟩, ⟨1, 0, 5, 15⟩, ⟨0, 0, 5, 7⟩]⟩
  | .xor => ⟨0x00004033, 0xFE00707F, [.reg, .reg, .reg], [⟨2, 0, 5, 20⟩, ⟨1, 0, 5, 15⟩, ⟨0, 0, 5, 7⟩]⟩
  | .addi => ⟨0x00000013, 0x0000707F, [.reg, .reg, .imm12], [⟨2, 0, 12, 20⟩, ⟨1, 0, 5, 15⟩, ⟨0, 0, 5, 7⟩]⟩
  | .sll => ⟨0x00001033, 0xFE00707F, [.reg, .reg, .reg], [⟨2, 0, 5, 20⟩, ⟨1, 0, 5, 15⟩, ⟨0, 0, 5, 7⟩]⟩
  | .bne => ⟨0x00001063, 0x0000707F, [.reg, .reg, .immB],
      [⟨2, 12, 1, 31⟩, ⟨2, 5, 6, 25⟩, ⟨1, 0, 5, 20⟩, ⟨0, 0, 5, 15⟩, ⟨2, 1, 4, 8⟩, ⟨2, 11, 1, 7⟩]⟩

/-- Whether a word lies in a row: its bits under the mask are the match word. -/
def Row.holds (r : Row) (w : Word) : Bool := w &&& r.mask == r.fixed

/-- `w[11:7]` as a register token. -/
def rdToken (w : Word) : Token := regToken (w.extractLsb' 7 5)

/-- `w[19:15]` as a register token. -/
def rs1Token (w : Word) : Token := regToken (w.extractLsb' 15 5)

/-- `w[24:20]` as a register token. -/
def rs2Token (w : Word) : Token := regToken (w.extractLsb' 20 5)

/-- The I-format immediate `w[31:20]`, sign-extended (R74, R94). -/
def immI (w : Word) : Int := sext (w.extractLsb' 20 12)

/-- The S-format immediate `w[31:25] : w[11:7]`, sign-extended (R75, R94). -/
def immS (w : Word) : Int := sext (w.extractLsb' 25 7 ++ w.extractLsb' 7 5)

/-- The B-format displacement `w[31] : w[7] : w[30:25] : w[11:8] : 0`, sign-extended (R76, R94). -/
def immB (w : Word) : Int :=
  sext (w.extractLsb' 31 1 ++ w.extractLsb' 7 1 ++ w.extractLsb' 25 6 ++ w.extractLsb' 8 4 ++ 0#1)

/-- The instruction, in canonical spelling, of a word of the given mnemonic's row. -/
def instrOfWord (w : Word) : Mnemonic → Instr
  | .lw => .lw (rdToken w) (immToken (immI w)) (rs1Token w)
  | .sw => .sw (rs2Token w) (immToken (immS w)) (rs1Token w)
  | .add => .add (rdToken w) (rs1Token w) (rs2Token w)
  | .xor => .xor (rdToken w) (rs1Token w) (rs2Token w)
  | .addi => .addi (rdToken w) (rs1Token w) (immToken (immI w))
  | .sll => .sll (rdToken w) (rs1Token w) (rs2Token w)
  | .bne => .bne (rs1Token w) (rs2Token w) (immToken (immB w))

/-- The instruction whose line packs into the word; none for a word outside the seven rows, which the
block never emits (R97). -/
def decodeWord (w : Word) : Option Instr :=
  (Mnemonic.all.find? fun m => (row m).holds w).map (instrOfWord w)

/-- The instruction the decoder reads from an instruction whose bits are `w`, as
spec/opcode_table.json numbers them. Every word of the block is 32 bits long (R70). -/
def decodeTableWord (nbits w : Nat) : Option Instr :=
  if nbits ≤ 32 then decodeWord (BitVec.ofNat 32 (w % 2 ^ nbits)) else none

/-! ### To a word -/

/-- The value of an operand token under the strict policy: a register index, or an immediate. -/
def operandValue (k : OperandKind) (t : Token) : Option Int :=
  match k with
  | .reg => ((Machine.regDecode 0 t).map fun r => (r.toNat : Int)).toOption
  | .imm12 => ((Machine.immParse 0 t).bind fun v => (Machine.strictCheck12 0 t v).map fun _ => v).toOption
  | .immB => ((Machine.immParse 0 t).bind fun v => (Machine.strictCheckB 0 t v).map fun _ => v).toOption

/-- The operand tuple of an instruction under the strict policy; none if some operand is rejected. -/
def Instr.values (i : Instr) : Option (Int × Int × Int) :=
  match (row i.mnemonic).kinds, i.operands with
  | [k1, k2, k3], [t1, t2, t3] =>
    match operandValue k1 t1, operandValue k2 t2, operandValue k3 t3 with
    | some a, some b, some c => some (a, b, c)
    | _, _, _ => none
  | _, _ => none

/-- Bits `lo + width - 1` to `lo` of an integer's two's-complement expansion (R8), at word bit `lsb`. -/
def Place.bits (p : Place) (a b c : Int) : Word :=
  let v : Int := match p.operand with
    | 0 => a
    | 1 => b
    | 2 => c
  BitVec.ofNat 32 (((v / 2 ^ p.lo) % 2 ^ p.width).toNat * 2 ^ p.lsb)

/-- A row's match word with an operand tuple's slices in their places. -/
def Row.pack (r : Row) (a b c : Int) : Word :=
  r.places.foldl (fun w p => w ||| p.bits a b c) r.fixed

/-- The word of an instruction whose operands the strict policy accepts, from the table's match word
and field places. -/
def encode (i : Instr) : Option Word :=
  i.values.map fun (a, b, c) => (row i.mnemonic).pack a b c

end Sys2Proof
end

