-- ==== Sys2Proof/Machine/State.lean ====
section
/-!
DEFINITION. The state of the block as plain data: the three stored elements of R23 (`STATUS.ERR` is derived
from `ERR_COUNT` and is computed, R25), and the two ends of the interface, the host's operations that
are still to be taken and the record of those that were taken with what each returned.
-/
namespace Sys2Proof.Machine

/-- The four operations of the host (R29). -/
inductive HostOp where
  /-- `Reset` -/
  | reset
  /-- `WriteReg(i, v)` -/
  | writeReg (i : Nat) (v : Word)
  /-- `ReadReg(i)` -/
  | readReg (i : Nat)
  /-- `Submit(line)` -/
  | submit (line : Line)
  deriving DecidableEq, Repr

/-- What an operation returns (the last column of R29). -/
inductive Returned where
  /-- `Reset` and `WriteReg` return nothing. -/
  | nothing
  /-- `ReadReg` returns a register's value. -/
  | value (v : Word)
  /-- `Submit` returns one response. -/
  | response (r : Response)
  deriving DecidableEq, Repr

/-- An operation the block has completed, with what it returned. -/
structure Event where
  op : HostOp
  ret : Returned
  deriving DecidableEq, Repr

/-- The block's state. The first three fields are the spec's (R23); the last two are the model's own
view of the host, outside the block (R20, R56): no encoding rule reads them beyond the line being
submitted. -/
structure State where
  /-- `CTRL.IMM_MODE` (R24). -/
  immMode : ImmMode
  /-- `LINE_NO` (R26). -/
  lineNo : Word
  /-- `ERR_COUNT` (R27). -/
  errCount : Word
  /-- The host's operations not yet taken, the next one first. -/
  pending : List HostOp
  /-- The operations already taken with what each returned, the latest one first. -/
  log : List Event
  deriving DecidableEq, Repr

/-- The block has no fault: no error kind is fatal to the run (R202) and it has no stuck state (R239),
so no reason exists. -/
inductive Fault where
  deriving DecidableEq, Repr

/-- Why a step gives an operation no meaning. -/
inductive Refusal where
  /-- An instruction whose meaning is not written yet, by its mnemonic. Raised by no arm of `exec`.
  Safe: the run stops where the hardware goes on. -/
  | notModelled (mnemonic : String)
  /-- Raised by `Submit` of a line over 255 bytes or holding 0x0A or 0x00, which "a model refuses"
  (R30, R207). Safe: no response and no counter change is claimed. -/
  | lineOutsideInterface
  /-- Raised by `ReadReg` and `WriteReg` with an index outside 0..3: "The model refuses it" (R29,
  R207). Safe: no value is claimed. -/
  | registerIndexOutsideInterface (i : Nat)
  deriving DecidableEq, Repr

/-- What a step answers. -/
abbrev Outcome := Host.Outcome State Fault Refusal

/-- The reset state (R28, R230, R231): STRICT, no line, no error; idle, with no operation pending (R232)
and none taken. -/
def State.reset : State where
  immMode := .strict
  lineNo := 0
  errCount := 0
  pending := []
  log := []

end Sys2Proof.Machine
end

