-- ==== Sys2Proof/Machine/Flags.lean ====
section
/-!
DEFINITION. The status flag, the two counters' update rules, and the four register words the host reads
(R23 to R27), with the run status (R208) and the sinks' contents (R31, R32, R56) as views of State.
-/
namespace Sys2Proof.Machine

/-- The bit of an immediate policy in `CTRL` (R24). -/
def immModeBit : ImmMode → Word
  | .strict => 0
  | .legacy => 1

/-- The policy that `v[0]` selects (R24, R29). -/
def immModeOfBit (b : Bool) : ImmMode := if b then .legacy else .strict

/-- `LINE_NO` after one more line: modulo 2^32 (R26, R27). -/
def nextLineNo (n : Word) : Word := n + 1

/-- `ERR_COUNT` after one more error: saturating at 2^32-1 (R27). -/
def nextErrCount (n : Word) : Word := BitVec.ofNat 32 (min (n.toNat + 1) Config.errCountMax)

/-- `STATUS.ERR`: 1 if and only if `ERR_COUNT ≠ 0` (R25). -/
def State.statusErr (s : State) : Bool := decide (s.errCount ≠ 0)

/-- Register 0, `CTRL`: bit 0 is `IMM_MODE`, the rest reads zero (R24). -/
def State.ctrlWord (s : State) : Word := immModeBit s.immMode

/-- Register 1, `STATUS`: bit 0 is `ERR`, the rest reads zero (R25). -/
def State.statusWord (s : State) : Word := if s.statusErr then 1 else 0

/-- The final status of a run (R208). -/
inductive RunStatus where
  /-- CLEAN: "clean success". -/
  | clean
  /-- COMPLETED_WITH_ERRORS: "completed with warnings". -/
  | completedWithErrors
  deriving DecidableEq, Repr

/-- The run status read as `STATUS.ERR` (R208). -/
def State.runStatus (s : State) : RunStatus :=
  if s.statusErr then .completedWithErrors else .clean

/-- The response in what an operation returned, if it is one. -/
def responseOf : Returned → Option Response
  | .nothing => none
  | .value _ => none
  | .response r => some r

/-- The word of a response, if it has one. -/
def wordOf : Response → Option Word
  | .word w => some w
  | .skip => none
  | .error _ => none

/-- The responses delivered so far, in the order of their `Submit` operations (R56). -/
def State.responses (s : State) : List Response := s.log.reverse.filterMap fun e => responseOf e.ret

/-- The word sink: the words delivered so far, in submission order (R31, R56). -/
def State.wordSink (s : State) : List Word := s.responses.filterMap wordOf

/-- The diagnostic sink: the diagnostics delivered so far, in line order (R31, R56). -/
def State.diagnosticSink (s : State) : List Diagnostic := s.responses.filterMap respDiagnostic

/-- The lines of a text sink, each the rendering of one word, before its terminator (R32). -/
def State.textSink (s : State) : List (List Byte) := s.wordSink.map render

end Sys2Proof.Machine
end

