-- ==== Sys2Proof/Machine/Ops.lean ====
section
/-!
DEFINITION. The shared operations of a transaction (R10, R27): counting the line, emitting a word or a skip,
and taking an error, which is the block's one exception entry (R205). There is no return operation:
the next `Submit` runs normally (R206).
-/
namespace Sys2Proof.Machine

/-- The line of the transaction that is running: the argument of the `Submit` at the head of the host's
operations. A step calls a meaning only inside such a transaction. -/
def State.currentLine (s : State) : Line :=
  match s.pending with
  | .submit line :: _ => line
  | _ => []

/-- The operation at the head of the host's operations is done and has returned `r`. -/
def State.complete (r : Returned) (s : State) : State :=
  match s.pending with
  | [] => s
  | op :: rest => { s with pending := rest, log := { op := op, ret := r } :: s.log }

/-- `LINE_NO <- trunc_32(LINE_NO + 1)`, always and first (R27). -/
def State.countLine (s : State) : State := { s with lineNo := nextLineNo s.lineNo }

/-- `CTRL.IMM_MODE <- m` (R24, R29). -/
def State.setImmMode (m : ImmMode) (s : State) : State := { s with immMode := m }

/-- The four elements at their reset values (R28); `STATUS.ERR` follows `ERR_COUNT`. -/
def State.resetRegisters (s : State) : State :=
  { s with immMode := .strict, lineNo := 0, errCount := 0 }

/-- `ERR_COUNT` counts one more error, saturating (R27). -/
def State.countError (s : State) : State := { s with errCount := nextErrCount s.errCount }

/-- `emit Word(w)` (R10). -/
def State.emitWord (w : Word) (s : State) : State := s.complete (.response (.word w))

/-- `emit Skip` (R10, R121, R122). -/
def State.emitSkip (s : State) : State := s.complete (.response .skip)

/-- `raise` (R10, R205): the error response carries the diagnostic of R203, `ERR_COUNT` grows with
saturation, and nothing else changes. `LINE_NO` has already been counted. -/
def State.raise (m : Token) (e : LineError) (s : State) : State :=
  s.countError.complete
    (.response (.error (diagnosticOf e s.lineNo s.currentLine m)))

/-- The end of an instruction's transaction: count the line, then emit the packed word or take the
error of the first operand that failed (R27, R126, R127). -/
def respond (m : Mnemonic) (r : Except LineError Word) (s : State) : Outcome :=
  match r with
  | .ok w => .next (s.countLine.emitWord w)
  | .error e => .next (s.countLine.raise m.text e)

end Sys2Proof.Machine
end

