-- ==== Sys2Proof/Machine/Pack.lean ====
section
/-!
DEFINITION. The bit-field packer: its one primitive `field` (R78), the four formats built from it (R73 to
R76), and the fixed fields of the opcode map (R79).
-/
namespace Sys2Proof.Machine

/-- `field(v, width, lsb)` of R78: mask the integer to the field's width, then shift it into place. -/
def field (v : Int) (width lsb : Nat) : Word :=
  (trunc width v).setWidth 32 <<< lsb

/-- R format, "funct7|rs2|rs1|funct3|rd|opcode" (R73). -/
def encodeR (funct7 : BitVec 7) (rs2 rs1 : BitVec 5) (funct3 : BitVec 3) (rd : BitVec 5)
    (opcode : BitVec 7) : Word :=
  field funct7.toNat 7 25 ||| field rs2.toNat 5 20 ||| field rs1.toNat 5 15
    ||| field funct3.toNat 3 12 ||| field rd.toNat 5 7 ||| field opcode.toNat 7 0

/-- I format, "imm[11:0]|rs1|funct3|rd|opcode" (R74). -/
def encodeI (b : BitVec 12) (rs1 : BitVec 5) (funct3 : BitVec 3) (rd : BitVec 5)
    (opcode : BitVec 7) : Word :=
  field b.toNat 12 20 ||| field rs1.toNat 5 15 ||| field funct3.toNat 3 12
    ||| field rd.toNat 5 7 ||| field opcode.toNat 7 0

/-- S format, "imm[11:5]|rs2|rs1|funct3|imm[4:0]|opcode" (R75). -/
def encodeS (b : BitVec 12) (rs2 rs1 : BitVec 5) (funct3 : BitVec 3) (opcode : BitVec 7) : Word :=
  field (b.extractLsb' 5 7).toNat 7 25 ||| field rs2.toNat 5 20 ||| field rs1.toNat 5 15
    ||| field funct3.toNat 3 12 ||| field (b.extractLsb' 0 5).toNat 5 7 ||| field opcode.toNat 7 0

/-- B format, "imm[12]|imm[10:5]|rs2|rs1|funct3|imm[4:1]|imm[11]|opcode" (R76). No field reads
`b[0]`. -/
def encodeB (b : BitVec 13) (rs2 rs1 : BitVec 5) (funct3 : BitVec 3) (opcode : BitVec 7) : Word :=
  field (b.extractLsb' 12 1).toNat 1 31 ||| field (b.extractLsb' 5 6).toNat 6 25
    ||| field rs2.toNat 5 20 ||| field rs1.toNat 5 15 ||| field funct3.toNat 3 12
    ||| field (b.extractLsb' 1 4).toNat 4 8 ||| field (b.extractLsb' 11 1).toNat 1 7
    ||| field opcode.toNat 7 0

/-- The opcode column of R79. -/
def opcodeOf : Mnemonic → BitVec 7
  | .lw => 0b0000011
  | .sw => 0b0100011
  | .add => 0b0110011
  | .xor => 0b0110011
  | .addi => 0b0010011
  | .sll => 0b0110011
  | .bne => 0b1100011

/-- The funct3 column of R79. -/
def funct3Of : Mnemonic → BitVec 3
  | .lw => 0b010
  | .sw => 0b010
  | .add => 0b000
  | .xor => 0b100
  | .addi => 0b000
  | .sll => 0b001
  | .bne => 0b001

/-- funct7 of `add`, `xor` and `sll` (R79). -/
def funct7R : BitVec 7 := 0b0000000

end Sys2Proof.Machine
end

