-- ==== Sys2Proof/Machine/Branch.lean ====
section
/-!
DEFINITION. `bne`, B format (spec/44_branch.md). The displacement is a literal; the block has no program
counter and resolves no label (R22).
-/
namespace Sys2Proof.Machine

/-- `bne rs1, rs2, imm` (R180). -/
def execBne (rs1 rs2 imm : Token) (s : State) : Outcome :=
  respond .bne
    (regRegBranch s.immMode rs1 rs2 imm fun a b disp =>
      encodeB disp b a (funct3Of .bne) (opcodeOf .bne)) s

end Sys2Proof.Machine
end

