-- ==== Sys2Proof/Machine/LoadStore.lean ====
section
/-!
DEFINITION. `lw` and `sw` (spec/41_load_store.md). The block encodes the access and performs none (R50).
-/
namespace Sys2Proof.Machine

/-- `lw rd, offset(rs1)`, I format (R150). -/
def execLw (rd offset rs1 : Token) (s : State) : Outcome :=
  respond .lw
    (regImmReg s.immMode rd offset rs1 fun d b base =>
      encodeI b base (funct3Of .lw) d (opcodeOf .lw)) s

/-- `sw rs2, offset(rs1)`, S format: the first operand goes into the rs2 field (R151). -/
def execSw (rs2 offset rs1 : Token) (s : State) : Outcome :=
  respond .sw
    (regImmReg s.immMode rs2 offset rs1 fun data b base =>
      encodeS b data base (funct3Of .sw) (opcodeOf .sw)) s

end Sys2Proof.Machine
end

