-- ==== Sys2Proof/Machine/RegImm.lean ====
section
/-!
DEFINITION. `addi`, I format (spec/43_register_immediate.md).
-/
namespace Sys2Proof.Machine

/-- `addi rd, rs1, imm` (R170). -/
def execAddi (rd rs1 imm : Token) (s : State) : Outcome :=
  respond .addi
    (regRegImm s.immMode rd rs1 imm fun d a b =>
      encodeI b a (funct3Of .addi) d (opcodeOf .addi)) s

end Sys2Proof.Machine
end

