-- ==== Sys2Proof/Machine/RegReg.lean ====
section
/-!
DEFINITION. `add`, `xor` and `sll`, R format (spec/42_register_register.md). All three operands are register
tokens and the immediate policy is never read.
-/
namespace Sys2Proof.Machine

/-- `add rd, rs1, rs2` (R160). -/
def execAdd (rd rs1 rs2 : Token) (s : State) : Outcome :=
  respond .add
    (regRegReg rd rs1 rs2 fun d a b =>
      encodeR funct7R b a (funct3Of .add) d (opcodeOf .add)) s

/-- `xor rd, rs1, rs2` (R161). -/
def execXor (rd rs1 rs2 : Token) (s : State) : Outcome :=
  respond .xor
    (regRegReg rd rs1 rs2 fun d a b =>
      encodeR funct7R b a (funct3Of .xor) d (opcodeOf .xor)) s

/-- `sll rd, rs1, rs2`: the shift amount is a register token (R162, C5). -/
def execSll (rd rs1 rs2 : Token) (s : State) : Outcome :=
  respond .sll
    (regRegReg rd rs1 rs2 fun d a b =>
      encodeR funct7R b a (funct3Of .sll) d (opcodeOf .sll)) s

end Sys2Proof.Machine
end

