-- ==== Sys2Proof/Machine/Dispatch.lean ====
section
/-!
DEFINITION. The format dispatcher's tagged variant: one arm per instruction (R79).
-/
namespace Sys2Proof.Machine

def exec (i : Instr) (s : State) : Host.Outcome State Fault Refusal :=
  match i with
  | .lw rd offset rs1 => Sys2Proof.Machine.execLw rd offset rs1 s
  | .sw rs2 offset rs1 => Sys2Proof.Machine.execSw rs2 offset rs1 s
  | .add rd rs1 rs2 => Sys2Proof.Machine.execAdd rd rs1 rs2 s
  | .xor rd rs1 rs2 => Sys2Proof.Machine.execXor rd rs1 rs2 s
  | .addi rd rs1 imm => Sys2Proof.Machine.execAddi rd rs1 imm s
  | .sll rd rs1 rs2 => Sys2Proof.Machine.execSll rd rs1 rs2 s
  | .bne rs1 rs2 imm => Sys2Proof.Machine.execBne rs1 rs2 imm s

end Sys2Proof.Machine
end

