-- ==== Sys2Proof/Machine/Interface.lean ====
section
/-!
DEFINITION. The host's four operations (R29) on the block, each one atomic step, and the idle block (R217,
R232).
-/
namespace Sys2Proof.Machine

/-- `Reset`: the values of R28, and no other effect; words and diagnostics already delivered stay
delivered (R230). -/
def hostReset (s : State) : Outcome :=
  .next (s.resetRegisters.complete .nothing)

/-- `WriteReg(i, v)`: register 0 takes `v[0]`; writes to 1, 2 and 3 are ignored; any other index is
refused (R29). -/
def hostWriteReg (i : Nat) (v : Word) (s : State) : Outcome :=
  match i with
  | 0 => .next ((s.setImmMode (immModeOfBit (v.getLsbD 0))).complete .nothing)
  | 1 => .next (s.complete .nothing)
  | 2 => .next (s.complete .nothing)
  | 3 => .next (s.complete .nothing)
  | n + 4 => .refused (.registerIndexOutsideInterface (n + 4))

/-- `ReadReg(i)`: the register's word, with no state change; an index outside 0..3 is refused (R29). -/
def hostReadReg (i : Nat) (s : State) : Outcome :=
  match i with
  | 0 => .next (s.complete (.value s.ctrlWord))
  | 1 => .next (s.complete (.value s.statusWord))
  | 2 => .next (s.complete (.value s.lineNo))
  | 3 => .next (s.complete (.value s.errCount))
  | n + 4 => .refused (.registerIndexOutsideInterface (n + 4))

/-- The transaction on a line inside the interface (R27, R120): a skip, an error found before any
operand is read, or the instruction's own meaning. -/
def transact (line : Line) (s : State) : Outcome :=
  match decodeLine line with
  | .skip => .next s.countLine.emitSkip
  | .rejected m e => .next (s.countLine.raise m e)
  | .instr i => exec i s

/-- `Submit(line)`: a line outside the interface is refused (R30, R207). -/
def hostSubmit (line : Line) (s : State) : Outcome :=
  if lineInInterface line then transact line s else .refused .lineOutsideInterface

/-- With no operation pending the block is idle and keeps all its state (R217, R232). -/
def idle (s : State) : Outcome := .next s

/-- The host issues `Submit` of the instruction's canonical line as the very next operation. A word
outside the seven rows is the word of no line (R97), and nothing is issued for it. -/
def submitWord (s : State) (nbits w : Nat) : State :=
  match decodeTableWord nbits w with
  | some i => { s with pending := .submit (renderLine i) :: s.pending }
  | none => s

end Sys2Proof.Machine
end

