-- ==== Sys2Proof/Machine/Step.lean ====
section
/-!
DEFINITION. One step: the block takes the host's next operation, whole (R20, R29).
-/
namespace Sys2Proof.Machine

/-- One step of the block. -/
def step (s : State) : Host.Outcome State Fault Refusal :=
  match s.pending with
  | [] => idle s
  | .reset :: _ => hostReset s
  | .writeReg i v :: _ => hostWriteReg i v s
  | .readReg i :: _ => hostReadReg i s
  | .submit line :: _ => hostSubmit line s

/-- `s` with the line of the instruction whose word is `w` as the host's next operation, so that the
very next step runs that instruction. -/
def State.withFetchWord (s : State) (nbits w : Nat) : State := submitWord s nbits w

end Sys2Proof.Machine
end

