-- ==== Sys2Proof/Machine/Reference.lean ====
section
/-!
DEFINITION. `Encode(line, mode, ln)` written once over the table, as R120 has it: one loop over the operand
kinds of the row, and one packing of the row's match word with slices of the operand integers. The
machine does not call it: its step goes through the dispatcher and each instruction's own meaning
(R150 to R180), and a statement says that the two agree.
-/
namespace Sys2Proof.Machine

/-- One operand of R120's loop as an integer: a register index, or an immediate after the policy's
check. -/
def resolveOperand (mode : ImmMode) (k : OperandKind) (i : OperandIndex) (t : Token) :
    Except LineError Int :=
  match k, mode with
  | .reg, _ => (regDecode i t).map fun r => (r.toNat : Int)
  | .imm12, .strict => (immParse i t).bind fun v => (strictCheck12 i t v).map fun _ => v
  | .immB, .strict => (immParse i t).bind fun v => (strictCheckB i t v).map fun _ => v
  | .imm12, .legacy => immParse i t
  | .immB, .legacy => immParse i t

/-- R120's loop: the operands in order, up to the first that fails (R126). -/
def resolveOperands (mode : ImmMode) :
    List (OperandKind × OperandIndex × Token) → Except LineError (List Int)
  | [] => .ok []
  | (k, i, t) :: rest =>
    match resolveOperand mode k i t with
    | .error e => .error e
    | .ok v => (resolveOperands mode rest).map fun vs => v :: vs

/-- The part of `Encode` after the mnemonic token `m`: dispatch, count, structure, operands, packing. -/
def encodeParts (line : Line) (mode : ImmMode) (m : Token) (ops : List (Token × Separator)) :
    Except LineError Word :=
  match dispatch m with
  | none => .error (.unsupportedMnemonic m)
  | some x =>
    if ops.length ≠ Config.operandsPerLine then .error (.operandCount ops.length)
    else if needsStructure x
        && !structureOk line ((ops.map Prod.snd).getD 1 []) ((ops.map Prod.snd).getD 2 []) then
      .error .structureAbsent
    else
      (resolveOperands mode ((row x).kinds.zip ([1, 2, 3].zip (ops.map Prod.fst)))).map fun vs =>
        (row x).pack (vs.getD 0 0) (vs.getD 1 0) (vs.getD 2 0)

/-- `Encode(line, mode, ln)` of R120. -/
def encodeLine (line : Line) (mode : ImmMode) (ln : Word) : Response :=
  if isComment line then .skip
  else
    match (tokenize line).parts with
    | [] => .skip
    | (m, _) :: ops =>
      match encodeParts line mode m ops with
      | .ok w => .word w
      | .error e => .error (diagnosticOf e ln line m)

end Sys2Proof.Machine
end

