-- ==== Sys2Proof/WellFormed.lean ====
section
/-!
DEFINITION. When an instruction is well formed: each operand token reads as its kind under the strict policy
(R85, R87, R92), and each is spelled canonically, without leading zeros or a `+`. A token that is
accepted but spelled otherwise (`x007`, `+5`, `-0`) names the same instruction word; `canonical`
gives its canonical spelling.
-/
namespace Sys2Proof

/-- The canonical token of an operand value. -/
def operandToken (k : OperandKind) (v : Int) : Token :=
  match k with
  | .reg => regToken (trunc 5 v)
  | .imm12 => immToken v
  | .immB => immToken v

/-- The strict policy accepts every operand. -/
def Instr.accepted (i : Instr) : Bool := i.values.isSome

/-- The same instruction in canonical spelling; itself if some operand is rejected. -/
def Instr.canonical (i : Instr) : Instr :=
  match (row i.mnemonic).kinds, i.values with
  | [k1, k2, k3], some (a, b, c) =>
    i.mnemonic.instr (operandToken k1 a) (operandToken k2 b) (operandToken k3 c)
  | _, _ => i

/-- Every operand is accepted under the strict policy and spelled canonically. -/
def Instr.wellFormed (i : Instr) : Bool := i.accepted && decide (i.canonical = i)

end Sys2Proof
end

