-- ==== Sys2Proof/Safety.lean ====
section
/-!
DEFINITION. The terms the statements are written in: the line language as predicates (R30, R80 to R87), the
verdict of an operand token under a policy, the state a transaction leaves (R27), the run, and the
invariants that tie the stored state to the record of operations.
-/
namespace Sys2Proof

/-! ### Lines and tokens, declaratively -/

/-- `c ∈ Δ` (R80). -/
def Delimiter (c : Byte) : Prop := c ∈ [0x20#8, 0x2C#8, 0x09#8, 0x28#8, 0x29#8]

/-- A line inside the interface (R30). -/
def InInterface (line : Line) : Prop :=
  line.length ≤ 255 ∧ 0x0A#8 ∉ line ∧ 0x00#8 ∉ line

/-- A comment line: `#` after spaces and tabs only (R81). -/
def CommentLine (line : Line) : Prop :=
  ∃ ws rest, line = ws ++ 0x23#8 :: rest ∧ ∀ c ∈ ws, c = 0x20#8 ∨ c = 0x09#8

/-- The decomposition of R80: `lead` is `sep[0]`, and `parts` pairs each token with the separator run
after it. -/
structure Splits (line : Line) (lead : Separator) (parts : List (Token × Separator)) : Prop where
  whole : line = lead ++ parts.flatMap fun p => p.1 ++ p.2
  leadRun : ∀ c ∈ lead, Delimiter c
  tokens : ∀ p ∈ parts, p.1 ≠ [] ∧ ∀ c ∈ p.1, ¬ Delimiter c
  runs : ∀ p ∈ parts, ∀ c ∈ p.2, Delimiter c
  inner : ∀ p ∈ parts.dropLast, p.2 ≠ []

/-- The `offset(rs1)` structure of R84. -/
def HasStructure (line : Line) (sep3 sep4 : Separator) : Prop :=
  line.count 0x28#8 = 1 ∧ 0x28#8 ∈ sep3 ∧ line.count 0x29#8 = 1 ∧ 0x29#8 ∈ sep4

/-- The value of a digit run by place value. -/
def placeValue : List Byte → Nat
  | [] => 0
  | d :: ds => (d.toNat - 0x30) * 10 ^ ds.length + placeValue ds

/-- One or more bytes `'0'..'9'` whose decimal value is `n`. -/
def Numeral (ds : List Byte) (n : Nat) : Prop :=
  ds ≠ [] ∧ (∀ c ∈ ds, 0x30 ≤ c.toNat ∧ c.toNat ≤ 0x39) ∧ placeValue ds = n

/-- A token of the form `x<digits>` whose digits are worth `n` (R85). -/
def RegisterToken (t : Token) (n : Nat) : Prop := ∃ ds, t = 0x78#8 :: ds ∧ Numeral ds n

/-- A token that is an optional sign and digits, worth `v` (R87). -/
def ImmediateToken (t : Token) (v : Int) : Prop :=
  ∃ ds n, Numeral ds n ∧
    ((t = ds ∧ v = n) ∨ (t = 0x2B#8 :: ds ∧ v = n) ∨ (t = 0x2D#8 :: ds ∧ v = -(n : Int)))

/-- The IMM12 range (R88). -/
def Fits12 (v : Int) : Prop := -2048 ≤ v ∧ v ≤ 2047

/-- The IMMB range, before evenness (R88). -/
def FitsB (v : Int) : Prop := -4096 ≤ v ∧ v ≤ 4095

/-- What a register token gives at operand `i` (R85). -/
inductive RegVerdict (i : OperandIndex) (t : Token) : Except LineError (BitVec 5) → Prop where
  | index (n : Nat) : RegisterToken t n → n ≤ 31 → RegVerdict i t (.ok (BitVec.ofNat 5 n))
  | range (n : Nat) : RegisterToken t n → 31 < n → RegVerdict i t (.error (.registerRange i t))
  | form : (∀ n, ¬ RegisterToken t n) → RegVerdict i t (.error (.registerSyntax i t))

/-- What an IMM12 token gives at operand `i` under a policy (R87, R90, R92, R93). -/
inductive Imm12Verdict (mode : ImmMode) (i : OperandIndex) (t : Token) :
    Except LineError (BitVec 12) → Prop where
  | pattern (v : Int) : ImmediateToken t v → (mode = .strict → Fits12 v) →
      Imm12Verdict mode i t (.ok (trunc 12 v))
  | range (v : Int) : ImmediateToken t v → mode = .strict → ¬ Fits12 v →
      Imm12Verdict mode i t (.error (.immediateRange i t))
  | form : (∀ v, ¬ ImmediateToken t v) → Imm12Verdict mode i t (.error (.immediateSyntax i t))

/-- What an IMMB token gives at operand `i` under a policy (R87, R90, R92, R93). -/
inductive ImmBVerdict (mode : ImmMode) (i : OperandIndex) (t : Token) :
    Except LineError (BitVec 13) → Prop where
  | pattern (v : Int) : ImmediateToken t v → (mode = .strict → FitsB v ∧ v % 2 = 0) →
      ImmBVerdict mode i t (.ok (trunc 13 v))
  | range (v : Int) : ImmediateToken t v → mode = .strict → ¬ FitsB v →
      ImmBVerdict mode i t (.error (.immediateRange i t))
  | odd (v : Int) : ImmediateToken t v → mode = .strict → FitsB v → v % 2 ≠ 0 →
      ImmBVerdict mode i t (.error (.immediateOdd i t))
  | form : (∀ v, ¬ ImmediateToken t v) → ImmBVerdict mode i t (.error (.immediateSyntax i t))

/-- Why an operand token of a kind fails under a policy, with the kind and sub-reason that R200 and R201
give that failure (R85, R87, R92). In legacy mode an integer never fails (R93). -/
inductive OperandCause (mode : ImmMode) (t : Token) :
    OperandKind → ErrorKind → SubReason → Prop where
  | registerSyntax : (∀ n, ¬ RegisterToken t n) →
      OperandCause mode t .reg .invalidRegister .regSyntax
  | registerRange (n : Nat) : RegisterToken t n → 31 < n →
      OperandCause mode t .reg .invalidRegister .range
  | immediateSyntax (k : OperandKind) : k ≠ .reg → (∀ v, ¬ ImmediateToken t v) →
      OperandCause mode t k .malformedInstruction .immSyntax
  | range12 (v : Int) : ImmediateToken t v → mode = .strict → ¬ Fits12 v →
      OperandCause mode t .imm12 .immediateOutOfRange .range
  | rangeB (v : Int) : ImmediateToken t v → mode = .strict → ¬ FitsB v →
      OperandCause mode t .immB .immediateOutOfRange .range
  | oddB (v : Int) : ImmediateToken t v → mode = .strict → FitsB v → v % 2 ≠ 0 →
      OperandCause mode t .immB .immediateOutOfRange .odd

/-- `e` is the error of the first of three operands that fails (R126). -/
def FirstError {α β γ : Type} (r1 : Except LineError α) (r2 : Except LineError β)
    (r3 : Except LineError γ) (e : LineError) : Prop :=
  r1 = .error e ∨ (∃ a, r1 = .ok a ∧ r2 = .error e) ∨
    ∃ a b, r1 = .ok a ∧ r2 = .ok b ∧ r3 = .error e

namespace Machine

/-! ### Transactions -/

/-- The state R27 leaves after the transaction on `line` with response `r`: the line is counted, an
error response is counted with saturation, the policy stays, and the operation moves from the head of
the pending ones to the record. -/
def answered (s : State) (line : Line) (rest : List HostOp) (r : Response) : State where
  immMode := s.immMode
  lineNo := trunc 32 (s.lineNo.toNat + 1)
  errCount := if isError r then BitVec.ofNat 32 (min (s.errCount.toNat + 1) (2 ^ 32 - 1)) else s.errCount
  pending := rest
  log := { op := .submit line, ret := .response r } :: s.log

/-- The error response of a raise in the transaction on `line` from state `s` (R203). -/
def rejection (s : State) (line : Line) (m : Token) (e : LineError) : Response :=
  .error (diagnosticOf e (trunc 32 (s.lineNo.toNat + 1)) line m)

/-- The next operation submits an instruction line inside the interface whose first token is `m` and
whose operand tokens, each with the separator run after it, are `ops`. -/
def OnLine (s : State) (line : Line) (rest : List HostOp) (m : Token)
    (ops : List (Token × Separator)) : Prop :=
  s.pending = .submit line :: rest ∧ InInterface line ∧ ¬ CommentLine line ∧
    ∃ lead sep, Splits line lead ((m, sep) :: ops)

/-- An operation the block gives a meaning to (R29, R30). -/
def OpInInterface : HostOp → Prop
  | .reset => True
  | .writeReg i _ => i ≤ 3
  | .readReg i => i ≤ 3
  | .submit line => InInterface line

/-- `k` steps from `s`, stopping at a refusal. -/
def run (k : Nat) (s : State) : Outcome := Sys2Proof.core.run k s

/-! ### The record of operations -/

/-- The number of lines submitted since the last `Reset`, in a record with the latest operation first. -/
def linesSinceReset : List Event → Nat
  | [] => 0
  | e :: older =>
    match e.op with
    | .reset => 0
    | .writeReg _ _ => linesSinceReset older
    | .readReg _ => linesSinceReset older
    | .submit _ => linesSinceReset older + 1

/-- Whether an operation returned an error response. -/
def returnedError (r : Returned) : Bool :=
  match r with
  | .nothing => false
  | .value _ => false
  | .response x => isError x

/-- The number of error responses since the last `Reset`. -/
def errorsSinceReset : List Event → Nat
  | [] => 0
  | e :: older =>
    match e.op with
    | .reset => 0
    | .writeReg _ _ => errorsSinceReset older
    | .readReg _ => errorsSinceReset older
    | .submit _ => if returnedError e.ret then errorsSinceReset older + 1 else errorsSinceReset older

/-- The counters are what R23 says they count: `LINE_NO` the lines submitted since reset modulo 2^32,
`ERR_COUNT` the error responses since reset, saturating. -/
def CountersAgree (s : State) : Prop :=
  s.lineNo.toNat = linesSinceReset s.log % 2 ^ 32 ∧
    s.errCount.toNat = min (errorsSinceReset s.log) (2 ^ 32 - 1)

/-- The stored registers of R23. -/
structure Regs where
  immMode : ImmMode
  lineNo : Word
  errCount : Word
  deriving DecidableEq, Repr

/-- The stored registers of a state. -/
def State.regs (s : State) : Regs := ⟨s.immMode, s.lineNo, s.errCount⟩

/-- What an operation does to the stored registers (R27, R28, R29). -/
def Regs.after (r : Regs) : HostOp → Regs
  | .reset => ⟨.strict, 0, 0⟩
  | .writeReg i v => if i = 0 then { r with immMode := if v.getLsbD 0 then .legacy else .strict } else r
  | .readReg _ => r
  | .submit line =>
    { r with
      lineNo := r.lineNo + 1
      errCount :=
        if isError (encodeLine line r.immMode (r.lineNo + 1)) then
          BitVec.ofNat 32 (min (r.errCount.toNat + 1) (2 ^ 32 - 1))
        else r.errCount }

/-- What an operation returns from the stored registers (R24 to R27, R29, R120). -/
def Regs.returns (r : Regs) : HostOp → Returned
  | .reset => .nothing
  | .writeReg _ _ => .nothing
  | .readReg i =>
    .value (match i with
      | 0 => if r.immMode = .legacy then 1 else 0
      | 1 => if r.errCount = 0 then 0 else 1
      | 2 => r.lineNo
      | _ => r.errCount)
  | .submit line => .response (encodeLine line r.immMode (r.lineNo + 1))

/-- The stored registers that a record of operations leads to from reset. -/
def replay : List Event → Regs
  | [] => ⟨.strict, 0, 0⟩
  | e :: older => (replay older).after e.op

/-- Every entry of a record is inside the interface and returned what the rules say, given the ones
before it. -/
def Explained : List Event → Prop
  | [] => True
  | e :: older => OpInInterface e.op ∧ e.ret = (replay older).returns e.op ∧ Explained older

/-- The stored state is the replay of the record, and the record is explained: every response,
register value and counter the host has ever seen is the one the rules give. -/
def RecordExplains (s : State) : Prop := s.regs = replay s.log ∧ Explained s.log

end Machine
end Sys2Proof
end

