-- ==== Sys2Proof/Certificates/Slice0/Obligations.lean ====
section
/-!
DEFINITION. The statements about the block. Each docstring says which rule of spec/ it formalises. Where a
rule is the spec's own decision (D<n>) or inference ("[derived: …]"), the docstring says so.
-/
open Sys2Proof Sys2Proof.Machine

/-! ### Packing -/

/-- R78: `field` masks the integer to its width and shifts it, so it writes no bit outside its place; a
value that has the field's width, as a register index and a fixed field have, keeps its value; and a word is the OR of its format's fields, where
the immediates, read as signed integers, are masked to each piece's width before the shift. -/
def Obligations.FieldMasksThenShifts : Prop :=
  (∀ (v : Int) (width lsb : Nat), width + lsb ≤ 32 → ∀ j, j < 32 →
    ((field v width lsb).getLsbD j = true ↔
      lsb ≤ j ∧ j < lsb + width ∧ (v / 2 ^ (j - lsb)) % 2 = 1)) ∧
  (∀ (v : Int) (width lsb : Nat), width + lsb ≤ 32 →
    ((field v width lsb).toNat : Int) = (v % 2 ^ width) * 2 ^ lsb) ∧
  (∀ (width lsb : Nat) (r : BitVec width), width + lsb ≤ 32 →
    (field r.toNat width lsb).toNat = r.toNat * 2 ^ lsb) ∧
  ∀ (b : BitVec 12) (c : BitVec 13) (f7 : BitVec 7) (rs2 rs1 rd : BitVec 5) (f3 : BitVec 3)
    (op : BitVec 7),
    encodeR f7 rs2 rs1 f3 rd op =
      field f7.toNat 7 25 ||| field rs2.toNat 5 20 ||| field rs1.toNat 5 15
        ||| field f3.toNat 3 12 ||| field rd.toNat 5 7 ||| field op.toNat 7 0 ∧
    encodeI b rs1 f3 rd op =
      field b.toInt 12 20 ||| field rs1.toNat 5 15 ||| field f3.toNat 3 12
        ||| field rd.toNat 5 7 ||| field op.toNat 7 0 ∧
    encodeS b rs2 rs1 f3 op =
      field (b.toInt / 2 ^ 5) 7 25 ||| field rs2.toNat 5 20 ||| field rs1.toNat 5 15
        ||| field f3.toNat 3 12 ||| field b.toInt 5 7 ||| field op.toNat 7 0 ∧
    encodeB c rs2 rs1 f3 op =
      field (c.toInt / 2 ^ 12) 1 31 ||| field (c.toInt / 2 ^ 5) 6 25 ||| field rs2.toNat 5 20
        ||| field rs1.toNat 5 15 ||| field f3.toNat 3 12 ||| field (c.toInt / 2) 4 8
        ||| field (c.toInt / 2 ^ 11) 1 7 ||| field op.toNat 7 0

/-- R73: the R layout, most significant field first. -/
def Obligations.RFormatLayout : Prop :=
  ∀ (f7 : BitVec 7) (rs2 rs1 : BitVec 5) (f3 : BitVec 3) (rd : BitVec 5) (op : BitVec 7),
    encodeR f7 rs2 rs1 f3 rd op = f7 ++ rs2 ++ rs1 ++ f3 ++ rd ++ op

/-- R74: the I layout, most significant field first. -/
def Obligations.IFormatLayout : Prop :=
  ∀ (b : BitVec 12) (rs1 : BitVec 5) (f3 : BitVec 3) (rd : BitVec 5) (op : BitVec 7),
    encodeI b rs1 f3 rd op = b ++ rs1 ++ f3 ++ rd ++ op

/-- R75: the S layout; the offset is split into `imm[11:5]` and `imm[4:0]`. -/
def Obligations.SFormatLayout : Prop :=
  ∀ (b : BitVec 12) (rs2 rs1 : BitVec 5) (f3 : BitVec 3) (op : BitVec 7),
    encodeS b rs2 rs1 f3 op =
      b.extractLsb 11 5 ++ rs2 ++ rs1 ++ f3 ++ b.extractLsb 4 0 ++ op

/-- R76: the B layout with its exact scatter; bit 0 of the displacement is read by no field. -/
def Obligations.BFormatLayout : Prop :=
  (∀ (b : BitVec 13) (rs2 rs1 : BitVec 5) (f3 : BitVec 3) (op : BitVec 7),
    encodeB b rs2 rs1 f3 op =
      b.extractLsb 12 12 ++ b.extractLsb 10 5 ++ rs2 ++ rs1 ++ f3 ++ b.extractLsb 4 1
        ++ b.extractLsb 11 11 ++ op) ∧
  ∀ (b c : BitVec 13) (rs2 rs1 : BitVec 5) (f3 : BitVec 3) (op : BitVec 7),
    b.extractLsb 12 1 = c.extractLsb 12 1 → encodeB b rs2 rs1 f3 op = encodeB c rs2 rs1 f3 op

/-- R77 (the spec's own derivation): the field masks of each format, as the packers place all-ones
fields, are the listed ones; in each format they sum to `0xFFFFFFFF` without a carry, so they are
disjoint and cover the word. -/
def Obligations.FieldMasksPartitionTheWord : Prop :=
  [encodeR 0x7F 0 0 0 0 0, encodeR 0 0x1F 0 0 0 0, encodeR 0 0 0x1F 0 0 0, encodeR 0 0 0 0x7 0 0,
      encodeR 0 0 0 0 0x1F 0, encodeR 0 0 0 0 0 0x7F] =
    [0xFE000000#32, 0x01F00000#32, 0x000F8000#32, 0x00007000#32, 0x00000F80#32, 0x0000007F#32] ∧
  [encodeI 0xFFF 0 0 0 0, encodeI 0 0x1F 0 0 0, encodeI 0 0 0x7 0 0, encodeI 0 0 0 0x1F 0,
      encodeI 0 0 0 0 0x7F] =
    [0xFFF00000#32, 0x000F8000#32, 0x00007000#32, 0x00000F80#32, 0x0000007F#32] ∧
  [encodeS 0xFE0 0 0 0 0, encodeS 0 0x1F 0 0 0, encodeS 0 0 0x1F 0 0, encodeS 0 0 0 0x7 0,
      encodeS 0x01F 0 0 0 0, encodeS 0 0 0 0 0x7F] =
    [0xFE000000#32, 0x01F00000#32, 0x000F8000#32, 0x00007000#32, 0x00000F80#32, 0x0000007F#32] ∧
  [encodeB 0x1000 0 0 0 0, encodeB 0x07E0 0 0 0 0, encodeB 0 0x1F 0 0 0, encodeB 0 0 0x1F 0 0,
      encodeB 0 0 0 0x7 0, encodeB 0x001E 0 0 0 0, encodeB 0x0800 0 0 0 0, encodeB 0 0 0 0 0x7F] =
    [0x80000000#32, 0x7E000000#32, 0x01F00000#32, 0x000F8000#32, 0x00007000#32, 0x00000F00#32,
      0x00000080#32, 0x0000007F#32] ∧
  (∀ masks ∈ [[0xFE000000, 0x01F00000, 0x000F8000, 0x00007000, 0x00000F80, 0x0000007F],
      [0xFFF00000, 0x000F8000, 0x00007000, 0x00000F80, 0x0000007F],
      [0x80000000, 0x7E000000, 0x01F00000, 0x000F8000, 0x00007000, 0x00000F00, 0x00000080, 0x0000007F]],
    List.sum masks = 0xFFFFFFFF ∧ List.foldl (· ||| ·) 0 masks = 0xFFFFFFFF)

/-- R94 (the spec's own derivation): every field of a packed word reads back, in each format. -/
def Obligations.FormatFieldsReadBack : Prop :=
  (∀ f7 rs2 rs1 f3 rd op w, encodeR f7 rs2 rs1 f3 rd op = w →
    w.extractLsb 31 25 = f7 ∧ w.extractLsb 24 20 = rs2 ∧ w.extractLsb 19 15 = rs1 ∧
      w.extractLsb 14 12 = f3 ∧ w.extractLsb 11 7 = rd ∧ w.extractLsb 6 0 = op) ∧
  (∀ b rs1 f3 rd op w, encodeI b rs1 f3 rd op = w →
    w.extractLsb 31 20 = b ∧ w.extractLsb 19 15 = rs1 ∧ w.extractLsb 14 12 = f3 ∧
      w.extractLsb 11 7 = rd ∧ w.extractLsb 6 0 = op) ∧
  (∀ b rs2 rs1 f3 op w, encodeS b rs2 rs1 f3 op = w →
    w.extractLsb 31 25 ++ w.extractLsb 11 7 = b ∧ w.extractLsb 24 20 = rs2 ∧
      w.extractLsb 19 15 = rs1 ∧ w.extractLsb 14 12 = f3 ∧ w.extractLsb 6 0 = op) ∧
  (∀ b rs2 rs1 f3 op w, encodeB b rs2 rs1 f3 op = w →
    w.extractLsb 31 31 ++ w.extractLsb 7 7 ++ w.extractLsb 30 25 ++ w.extractLsb 11 8 ++ 0#1 =
        b.extractLsb 12 1 ++ 0#1 ∧
      w.extractLsb 24 20 = rs2 ∧ w.extractLsb 19 15 = rs1 ∧ w.extractLsb 14 12 = f3 ∧
      w.extractLsb 6 0 = op)

/-! ### Encoding and decoding -/

/-- Words written out from the encodings of R79 and the vectors V1 to V5, V58 and V60 decode to the
instructions they stand for. The decoder of words is the model's own (log entry 8). -/
def Obligations.VectorWordsDecode : Prop :=
  -- lw x1, 0(x2): imm 0, rs1 2, funct3 010, rd 1, opcode 0000011
  decodeTableWord 32 0b00000000000000010010000010000011 =
    some (.lw [0x78#8, 0x31#8] [0x30#8] [0x78#8, 0x32#8]) ∧
  -- sw x1, 0(x2)
  decodeTableWord 32 0b00000000000100010010000000100011 =
    some (.sw [0x78#8, 0x31#8] [0x30#8] [0x78#8, 0x32#8]) ∧
  -- add x1, x2, x3
  decodeTableWord 32 0b00000000001100010000000010110011 =
    some (.add [0x78#8, 0x31#8] [0x78#8, 0x32#8] [0x78#8, 0x33#8]) ∧
  -- xor x10, x11, x12 (V58, 0x00C5C533)
  decodeTableWord 32 0b00000000110001011100010100110011 =
    some (.xor [0x78#8, 0x31#8, 0x30#8] [0x78#8, 0x31#8, 0x31#8] [0x78#8, 0x31#8, 0x32#8]) ∧
  -- addi x1, x2, 100
  decodeTableWord 32 0b00000110010000010000000010010011 =
    some (.addi [0x78#8, 0x31#8] [0x78#8, 0x32#8] [0x31#8, 0x30#8, 0x30#8]) ∧
  -- sll x5, x6, x7 (V60, 0x007312B3)
  decodeTableWord 32 0b00000000011100110001001010110011 =
    some (.sll [0x78#8, 0x35#8] [0x78#8, 0x36#8] [0x78#8, 0x37#8]) ∧
  -- bne x1, x2, 16
  decodeTableWord 32 0b00000000001000001001100001100011 =
    some (.bne [0x78#8, 0x31#8] [0x78#8, 0x32#8] [0x31#8, 0x36#8])

/-- Decode and encode agree: a well-formed instruction has a word and its word decodes to it; and a
word of any accepted spelling decodes to the canonical spelling of the instruction. This is the
round-trip property that U9 makes conditional on a decoder; the decoder is the model's own (log
entry 8). -/
def Obligations.DecodeInvertsEncode : Prop :=
  (∀ i : Instr, i.wellFormed = true → ∃ w, encode i = some w ∧ decodeWord w = some i) ∧
  ∀ (i : Instr) (w : Word), encode i = some w →
    decodeWord w = some i.canonical ∧ i.canonical.wellFormed = true

/-- R94 (the spec's own derivation): two accepted instructions with one word have one mnemonic and one
operand tuple, so two tuples that differ give different words. -/
def Obligations.StrictTuplesAreInjective : Prop :=
  ∀ (i j : Instr) (w : Word), encode i = some w → encode j = some w →
    i.mnemonic = j.mnemonic ∧ i.values = j.values

/-- The canonical text of a well-formed instruction is a line inside the interface that the front end
reads as that instruction (R80, R83, R84). -/
def Obligations.CanonicalLineDecodes : Prop :=
  ∀ i : Instr, i.wellFormed = true →
    InInterface (renderLine i) ∧ decodeLine (renderLine i) = .instr i

/-- Every word of the seven rows is emitted: with the line of the decoded instruction as the host's
next operation, the next step runs that instruction and answers that word, in either policy. With
EmittedWordsLieInTheirRow it says that the output space is exactly the seven rows (R97). -/
def Obligations.EveryTableWordIsEmitted : Prop :=
  (∀ (s : State) (w : Nat) (i : Instr), w < 2 ^ 32 → decodeTableWord 32 w = some i →
    step (s.withFetchWord 32 w) = exec i (s.withFetchWord 32 w) ∧
    step (s.withFetchWord 32 w) =
      .next (answered s (renderLine i) s.pending (.word (BitVec.ofNat 32 w)))) ∧
  ∀ w : Word, (decodeWord w).isSome = true ↔ ∃ m : Mnemonic, w &&& (row m).mask = (row m).fixed

/-- R97 (the spec's own derivation): a word that a step delivers lies in one of the seven rows, and a
word that an instruction's transaction delivers lies in that instruction's row. -/
def Obligations.EmittedWordsLieInTheirRow : Prop :=
  (∀ (i : Instr) (s t : State) (line : Line) (rest : List HostOp) (w : Word),
    s.pending = .submit line :: rest → exec i s = .next t →
    t.log = { op := .submit line, ret := .response (.word w) } :: s.log →
    w &&& (row i.mnemonic).mask = (row i.mnemonic).fixed) ∧
  ∀ (s t : State) (w : Word), step s = .next t → t.wordSink = s.wordSink ++ [w] →
    ∃ m : Mnemonic, w &&& (row m).mask = (row m).fixed

/-! ### Operand decoders -/

/-- R85: the register decoder, for every token: an index of at most 31 is returned, a larger one is
InvalidRegister(RANGE), anything that is not `x` and digits is InvalidRegister(SYNTAX). -/
def Obligations.RegisterDecoderVerdict : Prop :=
  ∀ (i : OperandIndex) (t : Token) (r : Except LineError (BitVec 5)),
    regDecode i t = r ↔ RegVerdict i t r

/-- R87: the immediate parser, for every token: an optional sign and decimal digits give their integer,
anything else is MalformedInstruction(IMM_SYNTAX). -/
def Obligations.ImmediateParserVerdict : Prop :=
  (∀ (i : OperandIndex) (t : Token) (v : Int), immParse i t = .ok v ↔ ImmediateToken t v) ∧
  ∀ (i : OperandIndex) (t : Token) (e : LineError),
    immParse i t = .error e ↔ (∀ v, ¬ ImmediateToken t v) ∧ e = .immediateSyntax i t

/-- R92: in strict mode an IMM12 value outside [-2048, 2047] is RANGE, an IMMB value outside
[-4096, 4095] is RANGE, an odd IMMB value inside it is ODD, and every other value passes; the four
boundary values of each kind come out as the rule says. -/
def Obligations.StrictModeRejects : Prop :=
  (∀ (i : OperandIndex) (t : Token) (v : Int), ImmediateToken t v →
    imm12Operand .strict i t =
      if -2048 ≤ v ∧ v ≤ 2047 then .ok (trunc 12 v) else .error (.immediateRange i t)) ∧
  (∀ (i : OperandIndex) (t : Token) (v : Int), ImmediateToken t v →
    immBOperand .strict i t =
      if ¬ (-4096 ≤ v ∧ v ≤ 4095) then .error (.immediateRange i t)
      else if v % 2 ≠ 0 then .error (.immediateOdd i t)
      else .ok (trunc 13 v)) ∧
  (∀ (i : OperandIndex) (t : Token), ImmediateToken t 2047 ∨ ImmediateToken t (-2048) →
    ∃ b, imm12Operand .strict i t = .ok b) ∧
  ∀ (i : OperandIndex) (t : Token), ImmediateToken t 2048 →
    imm12Operand .strict i t = .error (.immediateRange i t)

/-- R93: in legacy mode every integer is masked to its field and no immediate error but IMM_SYNTAX is
raised; 2048 gives the pattern `0x800`, an odd displacement packs like the even one below it, and 4096
gives `0x1000`. -/
def Obligations.LegacyModeMasks : Prop :=
  (∀ (i : OperandIndex) (t : Token) (v : Int), ImmediateToken t v →
    imm12Operand .legacy i t = .ok (trunc 12 v) ∧ immBOperand .legacy i t = .ok (trunc 13 v)) ∧
  (∀ (i : OperandIndex) (t : Token), (∀ v, ¬ ImmediateToken t v) →
    imm12Operand .legacy i t = .error (.immediateSyntax i t) ∧
      immBOperand .legacy i t = .error (.immediateSyntax i t)) ∧
  (∀ (i : OperandIndex) (t : Token), ImmediateToken t 2048 →
    imm12Operand .legacy i t = .ok 0x800 ∧ sext (0x800 : BitVec 12) = -2048) ∧
  (∀ (i : OperandIndex) (t : Token), ImmediateToken t 4096 →
    immBOperand .legacy i t = .ok 0x1000 ∧ sext (0x1000 : BitVec 13) = -4096) ∧
  ∀ (v : Int) (rs2 rs1 : BitVec 5) (f3 : BitVec 3) (op : BitVec 7), v % 2 ≠ 0 →
    encodeB (trunc 13 v) rs2 rs1 f3 op = encodeB (trunc 13 (v - 1)) rs2 rs1 f3 op

/-- R91 (the spec's own derivation): a pattern that passed the strict check reads back as its value, and
any pattern reads back as its value modulo the field. -/
def Obligations.PatternsKeepTheirValue : Prop :=
  (∀ v : Int, Fits12 v → sext (trunc 12 v) = v) ∧
  (∀ v : Int, FitsB v → sext (trunc 13 v) = v) ∧
  (∀ v : Int, (sext (trunc 12 v) - v) % 2 ^ 12 = 0) ∧
  (∀ v : Int, (sext (trunc 13 v) - v) % 2 ^ 13 = 0) ∧
  ∀ (v : Int) (rs2 rs1 : BitVec 5) (f3 : BitVec 3) (op : BitVec 7),
    immB (encodeB (trunc 13 v) rs2 rs1 f3 op) = sext (trunc 13 v) - v % 2

/-! ### The front end of a line -/

/-- R80: a line has exactly one decomposition into separator runs and tokens, and the tokenizer gives
it. -/
def Obligations.TokenizerGivesTheOneDecomposition : Prop :=
  ∀ (line : Line) (lead : Separator) (parts : List (Token × Separator)),
    Splits line lead parts ↔ tokenize line = { lead := lead, parts := parts }

/-- R81, R121: a line whose first byte that is no space and no tab is `#` gives Skip, whatever it holds,
and counts in LINE_NO. -/
def Obligations.CommentLinesSkip : Prop :=
  (∀ line : Line, isComment line = true ↔ CommentLine line) ∧
  ∀ (s : State) (line : Line) (rest : List HostOp), s.pending = .submit line :: rest →
    InInterface line → CommentLine line → step s = .next (answered s line rest .skip)

/-- R82, R122: a line that is no comment line and has no token, which is a line of delimiters only, gives
Skip and counts in LINE_NO. -/
def Obligations.BlankLinesSkip : Prop :=
  (∀ line : Line, (tokenize line).parts = [] ↔ ∀ c ∈ line, Delimiter c) ∧
  ∀ (s : State) (line : Line) (rest : List HostOp), s.pending = .submit line :: rest →
    InInterface line → (∀ c ∈ line, Delimiter c) → step s = .next (answered s line rest .skip)

/-- R123: a mnemonic token that is none of the seven raises UnsupportedMnemonic, whatever operands
follow, and the diagnostic names the token. -/
def Obligations.UnknownMnemonicRejected : Prop :=
  ∀ (s : State) (line : Line) (rest : List HostOp) (m : Token) (ops : List (Token × Separator)),
    OnLine s line rest m ops → (∀ x : Mnemonic, m ≠ x.text) →
    step s = .next (answered s line rest (rejection s line m (.unsupportedMnemonic m)))

/-- R83 with R84 and R124: any spelling with the same mnemonic token and the same three operand tokens is
the same instruction, for `lw` and `sw` if the parentheses stand where R84 wants them. -/
def Obligations.SameTokensSameInstruction : Prop :=
  ∀ (line : Line) (lead sep1 sep2 sep3 sep4 : Separator) (x : Mnemonic) (t1 t2 t3 : Token),
    ¬ CommentLine line →
    Splits line lead [(x.text, sep1), (t1, sep2), (t2, sep3), (t3, sep4)] →
    (x = .lw ∨ x = .sw → HasStructure line sep3 sep4) →
    decodeLine line = .instr (x.instr t1 t2 t3)

/-! ### The seven instructions -/

/-- R150: `lw rd, offset(rs1)`. Its word, its operand errors in operand order, and the two errors found
on its line before them; the state changes by R27 alone. -/
def Obligations.LwEncodesOrRejects : Prop :=
  (∀ (s : State) (line : Line) (rest : List HostOp) (t1 t2 t3 : Token) (rd rs1 : Nat) (v : Int),
    s.pending = .submit line :: rest →
    RegisterToken t1 rd → rd ≤ 31 → ImmediateToken t2 v → (s.immMode = .strict → Fits12 v) →
    RegisterToken t3 rs1 → rs1 ≤ 31 →
    exec (.lw t1 t2 t3) s = .next (answered s line rest (.word
      (trunc 12 v ++ BitVec.ofNat 5 rs1 ++ 0b010#3 ++ BitVec.ofNat 5 rd ++ 0b0000011#7)))) ∧
  (∀ (s : State) (line : Line) (rest : List HostOp) (t1 t2 t3 : Token) r1 r2 r3 (e : LineError),
    s.pending = .submit line :: rest →
    RegVerdict 1 t1 r1 → Imm12Verdict s.immMode 2 t2 r2 → RegVerdict 3 t3 r3 →
    FirstError r1 r2 r3 e →
    exec (.lw t1 t2 t3) s = .next (answered s line rest (rejection s line [0x6C#8, 0x77#8] e))) ∧
  (∀ (s : State) (line : Line) (rest : List HostOp) (ops : List (Token × Separator)),
    OnLine s line rest [0x6C#8, 0x77#8] ops → ops.length ≠ 3 →
    step s = .next (answered s line rest
      (rejection s line [0x6C#8, 0x77#8] (.operandCount ops.length)))) ∧
  ∀ (s : State) (line : Line) (rest : List HostOp) (t1 t2 t3 : Token) (sep2 sep3 sep4 : Separator),
    OnLine s line rest [0x6C#8, 0x77#8] [(t1, sep2), (t2, sep3), (t3, sep4)] →
    (HasStructure line sep3 sep4 → step s = exec (.lw t1 t2 t3) s) ∧
    (¬ HasStructure line sep3 sep4 →
      step s = .next (answered s line rest (rejection s line [0x6C#8, 0x77#8] .structureAbsent)))

/-- R151: `sw rs2, offset(rs1)`. The first operand goes into the rs2 field and the offset into two
pieces. -/
def Obligations.SwEncodesOrRejects : Prop :=
  (∀ (s : State) (line : Line) (rest : List HostOp) (t1 t2 t3 : Token) (rs2 rs1 : Nat) (v : Int),
    s.pending = .submit line :: rest →
    RegisterToken t1 rs2 → rs2 ≤ 31 → ImmediateToken t2 v → (s.immMode = .strict → Fits12 v) →
    RegisterToken t3 rs1 → rs1 ≤ 31 →
    exec (.sw t1 t2 t3) s = .next (answered s line rest (.word
      ((trunc 12 v).extractLsb 11 5 ++ BitVec.ofNat 5 rs2 ++ BitVec.ofNat 5 rs1 ++ 0b010#3
        ++ (trunc 12 v).extractLsb 4 0 ++ 0b0100011#7)))) ∧
  (∀ (s : State) (line : Line) (rest : List HostOp) (t1 t2 t3 : Token) r1 r2 r3 (e : LineError),
    s.pending = .submit line :: rest →
    RegVerdict 1 t1 r1 → Imm12Verdict s.immMode 2 t2 r2 → RegVerdict 3 t3 r3 →
    FirstError r1 r2 r3 e →
    exec (.sw t1 t2 t3) s = .next (answered s line rest (rejection s line [0x73#8, 0x77#8] e))) ∧
  (∀ (s : State) (line : Line) (rest : List HostOp) (ops : List (Token × Separator)),
    OnLine s line rest [0x73#8, 0x77#8] ops → ops.length ≠ 3 →
    step s = .next (answered s line rest
      (rejection s line [0x73#8, 0x77#8] (.operandCount ops.length)))) ∧
  ∀ (s : State) (line : Line) (rest : List HostOp) (t1 t2 t3 : Token) (sep2 sep3 sep4 : Separator),
    OnLine s line rest [0x73#8, 0x77#8] [(t1, sep2), (t2, sep3), (t3, sep4)] →
    (HasStructure line sep3 sep4 → step s = exec (.sw t1 t2 t3) s) ∧
    (¬ HasStructure line sep3 sep4 →
      step s = .next (answered s line rest (rejection s line [0x73#8, 0x77#8] .structureAbsent)))

/-- R160: `add rd, rs1, rs2`, in either policy. -/
def Obligations.AddEncodesOrRejects : Prop :=
  (∀ (s : State) (line : Line) (rest : List HostOp) (t1 t2 t3 : Token) (rd rs1 rs2 : Nat),
    s.pending = .submit line :: rest →
    RegisterToken t1 rd → rd ≤ 31 → RegisterToken t2 rs1 → rs1 ≤ 31 →
    RegisterToken t3 rs2 → rs2 ≤ 31 →
    exec (.add t1 t2 t3) s = .next (answered s line rest (.word
      (0b0000000#7 ++ BitVec.ofNat 5 rs2 ++ BitVec.ofNat 5 rs1 ++ 0b000#3 ++ BitVec.ofNat 5 rd
        ++ 0b0110011#7)))) ∧
  (∀ (s : State) (line : Line) (rest : List HostOp) (t1 t2 t3 : Token) r1 r2 r3 (e : LineError),
    s.pending = .submit line :: rest →
    RegVerdict 1 t1 r1 → RegVerdict 2 t2 r2 → RegVerdict 3 t3 r3 → FirstError r1 r2 r3 e →
    exec (.add t1 t2 t3) s =
      .next (answered s line rest (rejection s line [0x61#8, 0x64#8, 0x64#8] e))) ∧
  (∀ (s : State) (line : Line) (rest : List HostOp) (ops : List (Token × Separator)),
    OnLine s line rest [0x61#8, 0x64#8, 0x64#8] ops → ops.length ≠ 3 →
    step s = .next (answered s line rest
      (rejection s line [0x61#8, 0x64#8, 0x64#8] (.operandCount ops.length)))) ∧
  ∀ (s : State) (line : Line) (rest : List HostOp) (t1 t2 t3 : Token) (sep2 sep3 sep4 : Separator),
    OnLine s line rest [0x61#8, 0x64#8, 0x64#8] [(t1, sep2), (t2, sep3), (t3, sep4)] →
    step s = exec (.add t1 t2 t3) s

/-- R161: `xor rd, rs1, rs2`, in either policy. -/
def Obligations.XorEncodesOrRejects : Prop :=
  (∀ (s : State) (line : Line) (rest : List HostOp) (t1 t2 t3 : Token) (rd rs1 rs2 : Nat),
    s.pending = .submit line :: rest →
    RegisterToken t1 rd → rd ≤ 31 → RegisterToken t2 rs1 → rs1 ≤ 31 →
    RegisterToken t3 rs2 → rs2 ≤ 31 →
    exec (.xor t1 t2 t3) s = .next (answered s line rest (.word
      (0b0000000#7 ++ BitVec.ofNat 5 rs2 ++ BitVec.ofNat 5 rs1 ++ 0b100#3 ++ BitVec.ofNat 5 rd
        ++ 0b0110011#7)))) ∧
  (∀ (s : State) (line : Line) (rest : List HostOp) (t1 t2 t3 : Token) r1 r2 r3 (e : LineError),
    s.pending = .submit line :: rest →
    RegVerdict 1 t1 r1 → RegVerdict 2 t2 r2 → RegVerdict 3 t3 r3 → FirstError r1 r2 r3 e →
    exec (.xor t1 t2 t3) s =
      .next (answered s line rest (rejection s line [0x78#8, 0x6F#8, 0x72#8] e))) ∧
  (∀ (s : State) (line : Line) (rest : List HostOp) (ops : List (Token × Separator)),
    OnLine s line rest [0x78#8, 0x6F#8, 0x72#8] ops → ops.length ≠ 3 →
    step s = .next (answered s line rest
      (rejection s line [0x78#8, 0x6F#8, 0x72#8] (.operandCount ops.length)))) ∧
  ∀ (s : State) (line : Line) (rest : List HostOp) (t1 t2 t3 : Token) (sep2 sep3 sep4 : Separator),
    OnLine s line rest [0x78#8, 0x6F#8, 0x72#8] [(t1, sep2), (t2, sep3), (t3, sep4)] →
    step s = exec (.xor t1 t2 t3) s

/-- R162: `sll rd, rs1, rs2`, in either policy; the third operand is a register token. -/
def Obligations.SllEncodesOrRejects : Prop :=
  (∀ (s : State) (line : Line) (rest : List HostOp) (t1 t2 t3 : Token) (rd rs1 rs2 : Nat),
    s.pending = .submit line :: rest →
    RegisterToken t1 rd → rd ≤ 31 → RegisterToken t2 rs1 → rs1 ≤ 31 →
    RegisterToken t3 rs2 → rs2 ≤ 31 →
    exec (.sll t1 t2 t3) s = .next (answered s line rest (.word
      (0b0000000#7 ++ BitVec.ofNat 5 rs2 ++ BitVec.ofNat 5 rs1 ++ 0b001#3 ++ BitVec.ofNat 5 rd
        ++ 0b0110011#7)))) ∧
  (∀ (s : State) (line : Line) (rest : List HostOp) (t1 t2 t3 : Token) r1 r2 r3 (e : LineError),
    s.pending = .submit line :: rest →
    RegVerdict 1 t1 r1 → RegVerdict 2 t2 r2 → RegVerdict 3 t3 r3 → FirstError r1 r2 r3 e →
    exec (.sll t1 t2 t3) s =
      .next (answered s line rest (rejection s line [0x73#8, 0x6C#8, 0x6C#8] e))) ∧
  (∀ (s : State) (line : Line) (rest : List HostOp) (ops : List (Token × Separator)),
    OnLine s line rest [0x73#8, 0x6C#8, 0x6C#8] ops → ops.length ≠ 3 →
    step s = .next (answered s line rest
      (rejection s line [0x73#8, 0x6C#8, 0x6C#8] (.operandCount ops.length)))) ∧
  ∀ (s : State) (line : Line) (rest : List HostOp) (t1 t2 t3 : Token) (sep2 sep3 sep4 : Separator),
    OnLine s line rest [0x73#8, 0x6C#8, 0x6C#8] [(t1, sep2), (t2, sep3), (t3, sep4)] →
    step s = exec (.sll t1 t2 t3) s

/-- R170: `addi rd, rs1, imm`. -/
def Obligations.AddiEncodesOrRejects : Prop :=
  (∀ (s : State) (line : Line) (rest : List HostOp) (t1 t2 t3 : Token) (rd rs1 : Nat) (v : Int),
    s.pending = .submit line :: rest →
    RegisterToken t1 rd → rd ≤ 31 → RegisterToken t2 rs1 → rs1 ≤ 31 →
    ImmediateToken t3 v → (s.immMode = .strict → Fits12 v) →
    exec (.addi t1 t2 t3) s = .next (answered s line rest (.word
      (trunc 12 v ++ BitVec.ofNat 5 rs1 ++ 0b000#3 ++ BitVec.ofNat 5 rd ++ 0b0010011#7)))) ∧
  (∀ (s : State) (line : Line) (rest : List HostOp) (t1 t2 t3 : Token) r1 r2 r3 (e : LineError),
    s.pending = .submit line :: rest →
    RegVerdict 1 t1 r1 → RegVerdict 2 t2 r2 → Imm12Verdict s.immMode 3 t3 r3 →
    FirstError r1 r2 r3 e →
    exec (.addi t1 t2 t3) s =
      .next (answered s line rest (rejection s line [0x61#8, 0x64#8, 0x64#8, 0x69#8] e))) ∧
  (∀ (s : State) (line : Line) (rest : List HostOp) (ops : List (Token × Separator)),
    OnLine s line rest [0x61#8, 0x64#8, 0x64#8, 0x69#8] ops → ops.length ≠ 3 →
    step s = .next (answered s line rest
      (rejection s line [0x61#8, 0x64#8, 0x64#8, 0x69#8] (.operandCount ops.length)))) ∧
  ∀ (s : State) (line : Line) (rest : List HostOp) (t1 t2 t3 : Token) (sep2 sep3 sep4 : Separator),
    OnLine s line rest [0x61#8, 0x64#8, 0x64#8, 0x69#8] [(t1, sep2), (t2, sep3), (t3, sep4)] →
    step s = exec (.addi t1 t2 t3) s

/-- R180: `bne rs1, rs2, imm`. The displacement is scattered, and bit 0 of its pattern is discarded. -/
def Obligations.BneEncodesOrRejects : Prop :=
  (∀ (s : State) (line : Line) (rest : List HostOp) (t1 t2 t3 : Token) (rs1 rs2 : Nat) (v : Int),
    s.pending = .submit line :: rest →
    RegisterToken t1 rs1 → rs1 ≤ 31 → RegisterToken t2 rs2 → rs2 ≤ 31 →
    ImmediateToken t3 v → (s.immMode = .strict → FitsB v ∧ v % 2 = 0) →
    exec (.bne t1 t2 t3) s = .next (answered s line rest (.word
      ((trunc 13 v).extractLsb 12 12 ++ (trunc 13 v).extractLsb 10 5 ++ BitVec.ofNat 5 rs2
        ++ BitVec.ofNat 5 rs1 ++ 0b001#3 ++ (trunc 13 v).extractLsb 4 1
        ++ (trunc 13 v).extractLsb 11 11 ++ 0b1100011#7)))) ∧
  (∀ (s : State) (line : Line) (rest : List HostOp) (t1 t2 t3 : Token) r1 r2 r3 (e : LineError),
    s.pending = .submit line :: rest →
    RegVerdict 1 t1 r1 → RegVerdict 2 t2 r2 → ImmBVerdict s.immMode 3 t3 r3 →
    FirstError r1 r2 r3 e →
    exec (.bne t1 t2 t3) s =
      .next (answered s line rest (rejection s line [0x62#8, 0x6E#8, 0x65#8] e))) ∧
  (∀ (s : State) (line : Line) (rest : List HostOp) (ops : List (Token × Separator)),
    OnLine s line rest [0x62#8, 0x6E#8, 0x65#8] ops → ops.length ≠ 3 →
    step s = .next (answered s line rest
      (rejection s line [0x62#8, 0x6E#8, 0x65#8] (.operandCount ops.length)))) ∧
  ∀ (s : State) (line : Line) (rest : List HostOp) (t1 t2 t3 : Token) (sep2 sep3 sep4 : Separator),
    OnLine s line rest [0x62#8, 0x6E#8, 0x65#8] [(t1, sep2), (t2, sep3), (t3, sep4)] →
    step s = exec (.bne t1 t2 t3) s

/-- The frame of the seven instructions (R10, R11, R27, R205): whatever a meaning answers, the policy is
untouched, LINE_NO has counted one line, ERR_COUNT is unchanged or has counted one error with an error
response, and the record has grown by exactly this line's response. -/
def Obligations.InstructionFrame : Prop :=
  ∀ (i : Instr) (s t : State) (line : Line) (rest : List HostOp),
    s.pending = .submit line :: rest → exec i s = .next t →
    t.immMode = s.immMode ∧ t.lineNo = s.lineNo + 1 ∧ t.pending = rest ∧
    ∃ r, t.log = { op := .submit line, ret := .response r } :: s.log ∧
      ((∃ w, r = .word w) ∧ t.errCount = s.errCount ∨
        (∃ e, r = rejection s line i.mnemonic.text e) ∧
          t.errCount.toNat = min (s.errCount.toNat + 1) (2 ^ 32 - 1))

/-- When the host's next operation submits a line inside the interface that decodes to an instruction,
the step is that instruction's meaning on the same state. -/
def Obligations.StepRunsTheDecodedInstruction : Prop :=
  ∀ (s : State) (line : Line) (rest : List HostOp) (i : Instr),
    s.pending = .submit line :: rest → InInterface line → decodeLine line = .instr i →
    step s = exec i s

/-! ### The transaction and the machine -/

/-- R120: on every line inside the interface, the step through the dispatcher and the seven meanings
is R27's update with the response of the one table-driven `Encode` of R120, under the policy at the
start and with LINE_NO after its increment. -/
def Obligations.StepRefinesEncode : Prop :=
  ∀ (s : State) (line : Line) (rest : List HostOp), s.pending = .submit line :: rest →
    InInterface line →
    step s = .next (answered s line rest
      (encodeLine line s.immMode (trunc 32 (s.lineNo.toNat + 1))))

/-- R128, R129 (the first the spec's own derivation): the response to a line depends on no counter, no
earlier line and no other operation: two states under one policy answer one line alike, but for the
line number in the diagnostic. -/
def Obligations.ResponsesAreLineIndependent : Prop :=
  ∀ (s1 s2 : State) (line : Line) (rest1 rest2 : List HostOp),
    s1.pending = .submit line :: rest1 → s2.pending = .submit line :: rest2 → InInterface line →
    s1.immMode = s2.immMode →
    ∃ t1 t2 r1 r2, step s1 = .next t1 ∧ step s2 = .next t2 ∧
      t1.log = { op := .submit line, ret := .response r1 } :: s1.log ∧
      t2.log = { op := .submit line, ret := .response r2 } :: s2.log ∧
      (r1 = r2 ∨ ∃ d1 d2, r1 = .error d1 ∧ r2 = .error d2 ∧ { d1 with lineNo := d2.lineNo } = d2)

/-- R203, with the causes of R200: the record of every error response. The line number after the
increment, the submitted bytes, the first token; and, for each cause of an error, its own kind and
sub-reason, the operand index, the token and the count. -/
def Obligations.DiagnosticRecordsTheError : Prop :=
  ∀ (s t : State) (line : Line) (rest : List HostOp) (d : Diagnostic),
    s.pending = .submit line :: rest → step s = .next t →
    t.log = { op := .submit line, ret := .response (.error d) } :: s.log →
    d.lineNo = trunc 32 (s.lineNo.toNat + 1) ∧ d.line = line ∧
    ∃ lead sep ops, Splits line lead ((d.mnemonic, sep) :: ops) ∧
      (((∀ x : Mnemonic, d.mnemonic ≠ x.text) ∧ d.kind = .unsupportedMnemonic ∧ d.sub = .noReason ∧
          d.operand = 0 ∧ d.token = d.mnemonic ∧ d.count = 0) ∨
        ∃ x : Mnemonic, d.mnemonic = x.text ∧
          ((ops.length ≠ 3 ∧ d.kind = .malformedInstruction ∧ d.sub = .count ∧ d.operand = 0 ∧
              d.token = [] ∧ d.count = ops.length) ∨
            ((x = .lw ∨ x = .sw) ∧
              (∃ p1 p2 p3, ops = [p1, p2, p3] ∧ ¬ HasStructure line p2.2 p3.2) ∧
              d.kind = .malformedInstruction ∧ d.sub = .structureAbsent ∧ d.operand = 0 ∧
              d.token = [] ∧ d.count = 0) ∨
            (ops.length = 3 ∧ 1 ≤ d.operand.val ∧
              (ops.map Prod.fst)[d.operand.val - 1]? = some d.token ∧ d.count = 0 ∧
              ∃ k, (row x).kinds[d.operand.val - 1]? = some k ∧
                OperandCause s.immMode d.token k d.kind d.sub)))

/-- R201, with the kinds of R200: the two code tables, the exact kind, sub-reason and codes of each
raise, and which pairs of codes a response can carry: the pairs of the table and no other, so RESP_CODE
6 and 7 and SUB 7 are never produced. -/
def Obligations.ResponseCodesAreLegal : Prop :=
  (∀ w, respCode (.word w) = 0 ∧ respSub (.word w) = 0) ∧
  respCode .skip = 1 ∧ respSub .skip = 0 ∧
  [ErrorKind.unsupportedMnemonic, .malformedInstruction, .invalidRegister,
      .immediateOutOfRange].map kindCode = [2, 3, 4, 5] ∧
  [SubReason.noReason, .count, .structureAbsent, .immSyntax, .regSyntax, .range, .odd].map subCode =
    [0, 1, 2, 3, 4, 5, 6] ∧
  (∀ d : Diagnostic, respCode (.error d) = kindCode d.kind ∧ respSub (.error d) = subCode d.sub) ∧
  (∀ (i : OperandIndex) (t : Token) (n : Nat) (ln : Word) (line : Line) (m : Token),
    let raised := fun e =>
      let d := diagnosticOf e ln line m
      (d.kind, d.sub, respCode (.error d), respSub (.error d))
    raised (.unsupportedMnemonic t) = (.unsupportedMnemonic, .noReason, 2, 0) ∧
    raised (.operandCount n) = (.malformedInstruction, .count, 3, 1) ∧
    raised .structureAbsent = (.malformedInstruction, .structureAbsent, 3, 2) ∧
    raised (.immediateSyntax i t) = (.malformedInstruction, .immSyntax, 3, 3) ∧
    raised (.registerSyntax i t) = (.invalidRegister, .regSyntax, 4, 4) ∧
    raised (.registerRange i t) = (.invalidRegister, .range, 4, 5) ∧
    raised (.immediateRange i t) = (.immediateOutOfRange, .range, 5, 5) ∧
    raised (.immediateOdd i t) = (.immediateOutOfRange, .odd, 5, 6)) ∧
  ∀ (s t : State) (line : Line) (rest : List HostOp) (r : Response),
    s.pending = .submit line :: rest → step s = .next t →
    t.log = { op := .submit line, ret := .response r } :: s.log →
    (respCode r, respSub r) ∈
      [(0, 0), (1, 0), (2, 0), (3, 1), (3, 2), (3, 3), (4, 4), (4, 5), (5, 5), (5, 6)]

/-- R205: the effect of an error response: no word, one diagnostic, LINE_NO counted, ERR_COUNT counted
with saturation so that STATUS.ERR is 1, and nothing else changed. -/
def Obligations.ErrorEntryEffect : Prop :=
  ∀ (s t : State) (line : Line) (rest : List HostOp) (d : Diagnostic),
    s.pending = .submit line :: rest → step s = .next t →
    t.log = { op := .submit line, ret := .response (.error d) } :: s.log →
    t.wordSink = s.wordSink ∧ t.diagnosticSink = s.diagnosticSink ++ [d] ∧
    t.lineNo = s.lineNo + 1 ∧
    t.errCount.toNat = min (s.errCount.toNat + 1) (2 ^ 32 - 1) ∧ t.statusErr = true ∧
    t.immMode = s.immMode ∧ t.pending = rest

/-- R31: each Submit delivers exactly one response, at the end of the responses delivered before it: a
word to the word sink, a diagnostic to the diagnostic sink, or a skip to neither, with RESP_CODE 0 and
the word in RESP_WORD for a word alone; the three other operations deliver none. -/
def Obligations.ResponsesComeInOrder : Prop :=
  ∀ (s t : State) (op : HostOp) (rest : List HostOp), s.pending = op :: rest → step s = .next t →
    (∀ line, op = .submit line → ∃ r, t.responses = s.responses ++ [r] ∧
      ((∃ w, r = .word w ∧ respCode r = 0 ∧ respWord r = w ∧ respDiagnostic r = none ∧
          t.wordSink = s.wordSink ++ [w] ∧ t.diagnosticSink = s.diagnosticSink) ∨
        (r = .skip ∧ respCode r = 1 ∧ respWord r = 0 ∧ respDiagnostic r = none ∧
          t.wordSink = s.wordSink ∧ t.diagnosticSink = s.diagnosticSink) ∨
        ∃ d, r = .error d ∧ 2 ≤ respCode r ∧ respCode r ≤ 5 ∧ respWord r = 0 ∧
          respDiagnostic r = some d ∧ t.wordSink = s.wordSink ∧
          t.diagnosticSink = s.diagnosticSink ++ [d])) ∧
    ((∀ line, op ≠ .submit line) → t.responses = s.responses)

/-- R24: `CTRL` reads as IMM_MODE in bit 0 and zero above, a write takes bit 0 of the value and ignores
the rest, and nothing else changes; bit 0 selects the validator's policy, 0 to reject and 1 to mask;
it resets to STRICT. -/
def Obligations.CtrlRegister : Prop :=
  (∀ (s : State) (rest : List HostOp), s.pending = .readReg 0 :: rest →
    step s = .next { s with
      pending := rest
      log := { op := .readReg 0, ret := .value (if s.immMode = .legacy then 1 else 0) } :: s.log }) ∧
  (∀ (s : State) (v : Word) (rest : List HostOp), s.pending = .writeReg 0 v :: rest →
    step s = .next { s with
      immMode := if v.getLsbD 0 then .legacy else .strict
      pending := rest
      log := { op := .writeReg 0 v, ret := .nothing } :: s.log }) ∧
  (∀ (s : State) (v : Word) (rest : List HostOp),
    s.pending = .writeReg 0 v :: .readReg 0 :: rest →
    ∃ t, run 2 s = .next t ∧
      t.log = { op := .readReg 0, ret := .value (v &&& 1) } ::
        { op := .writeReg 0 v, ret := .nothing } :: s.log) ∧
  (∀ (i : OperandIndex) (t : Token) (v : Int), ImmediateToken t v → ¬ Fits12 v →
    imm12Operand (immModeOfBit false) i t = .error (.immediateRange i t) ∧
      imm12Operand (immModeOfBit true) i t = .ok (trunc 12 v)) ∧
  State.reset.immMode = .strict

/-- R25, with R208's reading of it: `STATUS` reads 1 if ERR_COUNT is not 0 and 0 if it is, bits 31:1 zero; the run status is
CLEAN in the second case and COMPLETED_WITH_ERRORS in the first; a write is ignored; it resets to 0. -/
def Obligations.StatusRegister : Prop :=
  (∀ (s : State) (rest : List HostOp), s.pending = .readReg 1 :: rest →
    step s = .next { s with
      pending := rest
      log := { op := .readReg 1, ret := .value (if s.errCount = 0 then 0 else 1) } :: s.log }) ∧
  (∀ (s : State) (v : Word) (rest : List HostOp), s.pending = .writeReg 1 v :: rest →
    step s = .next { s with
      pending := rest
      log := { op := .writeReg 1 v, ret := .nothing } :: s.log }) ∧
  (∀ s : State, (s.statusErr = true ↔ s.errCount ≠ 0) ∧ (s.runStatus = .clean ↔ s.errCount = 0)) ∧
  State.reset.statusErr = false

/-- The read and write columns of R29 for registers 2 and 3: `LINE_NO` and `ERR_COUNT` read their
counters, a write to either is ignored, and any index above 3 is refused. -/
def Obligations.CounterRegistersAreReadOnly : Prop :=
  (∀ (s : State) (rest : List HostOp), s.pending = .readReg 2 :: rest →
    step s = .next { s with
      pending := rest
      log := { op := .readReg 2, ret := .value s.lineNo } :: s.log }) ∧
  (∀ (s : State) (rest : List HostOp), s.pending = .readReg 3 :: rest →
    step s = .next { s with
      pending := rest
      log := { op := .readReg 3, ret := .value s.errCount } :: s.log }) ∧
  (∀ (s : State) (i : Nat) (v : Word) (rest : List HostOp), i = 2 ∨ i = 3 →
    s.pending = .writeReg i v :: rest →
    step s = .next { s with
      pending := rest
      log := { op := .writeReg i v, ret := .nothing } :: s.log }) ∧
  ∀ (s : State) (i : Nat) (v : Word) (rest : List HostOp), 3 < i →
    (s.pending = .writeReg i v :: rest → step s = .refused (.registerIndexOutsideInterface i)) ∧
    (s.pending = .readReg i :: rest → step s = .refused (.registerIndexOutsideInterface i))

/-- R230: `Reset` sets the four elements from any state, and touches no delivered word or
diagnostic; the launch state is the reset state. -/
def Obligations.ResetSetsTheFourElements : Prop :=
  (∀ (s : State) (rest : List HostOp), s.pending = .reset :: rest →
    ∃ t, step s = .next t ∧ t.immMode = .strict ∧ t.lineNo = 0 ∧ t.errCount = 0 ∧
      t.statusErr = false ∧ t.pending = rest ∧ t.wordSink = s.wordSink ∧
      t.diagnosticSink = s.diagnosticSink ∧
      t.log = { op := .reset, ret := .nothing } :: s.log) ∧
  State.reset.immMode = .strict ∧ State.reset.lineNo = 0 ∧ State.reset.errCount = 0 ∧
    State.reset.statusErr = false ∧ State.reset.ctrlWord = 0 ∧ State.reset.statusWord = 0

/-- R233: a Reset between two Submits begins another run: the next line is line 1, and the status then
says only what that line gave. -/
def Obligations.ResetBeginsANewRun : Prop :=
  ∀ (s : State) (line : Line) (rest : List HostOp), s.pending = .reset :: .submit line :: rest →
    InInterface line →
    ∃ t r, run 2 s = .next t ∧ t.lineNo = 1 ∧ t.statusErr = isError r ∧
      t.log = { op := .submit line, ret := .response r } ::
        { op := .reset, ret := .nothing } :: s.log ∧
      (∀ d, r = .error d → d.lineNo = 1) ∧ r = encodeLine line .strict 1

/-- R237: a write of CTRL in the middle of a run takes effect at the next Submit, which is answered
under the written policy whatever the policy was before, and leaves no mark: after it the state is the
answered one of the state with that policy, so ERR_COUNT counts this line's response alone. -/
def Obligations.ModeWriteActsOnTheNextSubmit : Prop :=
  ∀ (s : State) (v : Word) (line : Line) (rest : List HostOp),
    s.pending = .writeReg 0 v :: .submit line :: rest → InInterface line →
    ∃ mode : ImmMode, mode = (if v.getLsbD 0 then .legacy else .strict) ∧
      run 2 s = .next (answered
        { s with immMode := mode, log := { op := .writeReg 0 v, ret := .nothing } :: s.log }
        line rest (encodeLine line mode (s.lineNo + 1)))

/-- R30: a Submit is refused exactly when its line is outside the interface, and gives a response when
it is inside. -/
def Obligations.LinesOutsideTheInterfaceAreRefused : Prop :=
  ∀ (s : State) (line : Line) (rest : List HostOp), s.pending = .submit line :: rest →
    (¬ InInterface line → step s = .refused .lineOutsideInterface) ∧
    (InInterface line → ∃ r, step s = .next (answered s line rest r))

/-- Exactly the operations outside the interface are refused (R29, R30, R207), and a refusal ends the run:
however many steps are asked for, before or after, the run stays refused. That the refusal mark of R207
is the refused outcome which ends the run is the model's choice (log entry 3); the second clause rests
on it. -/
def Obligations.RefusalIsKeptForTheRun : Prop :=
  (∀ (s : State) (op : HostOp) (rest : List HostOp), s.pending = op :: rest →
    ((∃ q, step s = .refused q) ↔ ¬ OpInInterface op)) ∧
  ∀ (s t : State) (j k : Nat) (q : Refusal), run j s = .next t → step t = .refused q →
    run (j + 1 + k) s = .refused q

/-- R217, R232: with no operation pending the block is idle and keeps all its state. -/
def Obligations.IdleKeepsTheState : Prop :=
  ∀ s : State, s.pending = [] → ∀ k, run k s = .next s

/-- R32: `render(w)` is 32 bytes, byte `j` the character of `w[31-j]`, and different words render
differently. -/
def Obligations.RenderIsMostSignificantFirst : Prop :=
  ∀ w : Word, (render w).length = 32 ∧
    (∀ j, j < 32 → (render w)[j]? = some (if w.getLsbD (31 - j) then 0x31#8 else 0x30#8)) ∧
    ∀ w', render w' = render w → w' = w

/-! ### Invariants and runs -/

/-- R23, R26, R27: every step keeps the counters equal to what they count: LINE_NO the lines submitted
since the last Reset modulo 2^32, ERR_COUNT the error responses since it, saturating. The record they
are compared with is the model's own (log entry 2). -/
def Obligations.CountersCountSinceReset : Prop :=
  ∀ s t : State, CountersAgree s → step s = .next t → CountersAgree t

/-- The counters agree with the empty record at the launch state. -/
def Obligations.CountersAgreeAtReset : Prop := CountersAgree State.reset

/-- Every step keeps the record explained: the stored registers are the replay of the operations taken,
and every response and register value in the record is the one that R24 to R29 and R120 give from the
operations before it (R11, R56, R128, R129). So a response depends on its line, the policy and the
line number and on nothing else, in every run. The record is the model's own (log entry 2). -/
def Obligations.RecordStaysExplained : Prop :=
  ∀ s t : State, RecordExplains s → step s = .next t → RecordExplains t

/-- The launch state is explained by its empty record. -/
def Obligations.RecordExplainedAtReset : Prop := RecordExplains State.reset

/-- R210: once STATUS.ERR is 1, no Submit and no WriteReg (and no ReadReg) clears it, however many
operations follow, as long as none of them is a Reset. -/
def Obligations.ErrorStatusIsSticky : Prop :=
  ∀ (k : Nat) (s t : State), s.statusErr = true → (∀ op ∈ s.pending.take k, op ≠ .reset) →
    run k s = .next t → t.statusErr = true

/-- R239 (the spec's own derivation), with R130, R202, R206: a run of n operations inside the interface
ends after n steps, with no fault and no stop at any error, with nothing pending and with exactly
these operations recorded, in the order the host issued them. -/
def Obligations.RunsCompleteInOrder : Prop :=
  ∀ s : State, (∀ op ∈ s.pending, OpInInterface op) →
    ∃ t events, run s.pending.length s = .next t ∧ t.pending = [] ∧ t.log = events ++ s.log ∧
      (events.map Event.op).reverse = s.pending
end

