-- ==== Sys2Proof/Laws/Decode.lean ====
section
/-!
SUPPORT. The front end's building blocks against the declarative readings of Safety.lean, the dispatcher's
table, and the tokenizer on a separator run and on a token.
-/
namespace Sys2Proof

/-- The delimiter test. -/
theorem isDelimiter_iff (c : Byte) : isDelimiter c = true ↔ Delimiter c := by
  simp [isDelimiter, Delimiter]; tauto

/-- The line test of the interface. -/
theorem lineInInterface_iff (line : Line) : lineInInterface line = true ↔ InInterface line := by
  simp [lineInInterface, InInterface, Config.lineMax, and_assoc]
  intro _ _; exact decide_eq_true_iff

/-- The structure test of `lw` and `sw`. -/
theorem structureOk_iff (line : Line) (sep3 sep4 : Separator) :
    structureOk line sep3 sep4 = true ↔ HasStructure line sep3 sep4 := by
  simp [structureOk, HasStructure, and_assoc]

/-- A separator run in front of a line joins the line's leading run. -/
theorem tokenize_separator (sep : Separator) (line : Line) (h : ∀ c ∈ sep, Delimiter c) :
    tokenize (sep ++ line) =
      { lead := sep ++ (tokenize line).lead, parts := (tokenize line).parts } := by
  induction sep with
  | nil => rfl
  | cons c cs ih =>
    rw [List.cons_append, tokenize, ih (fun x hx => h x (by simp [hx])), SplitLine.push,
      if_pos ((isDelimiter_iff c).2 (h c (by simp)))]
    rfl

/-- A token in front of a line that begins with a separator, or that has no token, is the line's first
token. -/
theorem tokenize_token (t : Token) (line : Line) (ht : t ≠ []) (h : ∀ c ∈ t, ¬ Delimiter c)
    (hl : (tokenize line).lead ≠ [] ∨ (tokenize line).parts = []) :
    tokenize (t ++ line) =
      { lead := [], parts := (t, (tokenize line).lead) :: (tokenize line).parts } := by
  induction t with
  | nil => exact absurd rfl ht
  | cons c cs ih =>
    have hc : ¬ isDelimiter c = true := fun x => h c (by simp) ((isDelimiter_iff c).1 x)
    rcases cs with _ | ⟨d, ds⟩
    · rw [List.cons_append, List.nil_append, tokenize, SplitLine.push, if_neg hc]
      generalize tokenize line = sp at hl
      obtain ⟨lead, parts⟩ := sp
      rcases lead with _ | ⟨x, lead⟩ <;> rcases parts with _ | ⟨p, parts⟩ <;> simp_all
    · rw [List.cons_append, tokenize,
        ih (by simp) (fun x hx => h x (by simp at hx ⊢; tauto)), SplitLine.push, if_neg hc]

/-! ### The dispatcher -/

/-- Every mnemonic stands in the list. -/
theorem Mnemonic.mem_all (x : Mnemonic) : x ∈ Mnemonic.all := by cases x <;> decide

/-- Two mnemonics with one spelling are one. -/
theorem Mnemonic.text_injective {x y : Mnemonic} (h : x.text = y.text) : x = y := by
  revert h; cases x <;> cases y <;> decide

/-- The dispatcher finds each mnemonic by its spelling. -/
@[simp] theorem dispatch_text (x : Mnemonic) : dispatch x.text = some x := by cases x <;> decide

/-- What the dispatcher finds is spelled like the token. -/
theorem dispatch_some {m : Token} {x : Mnemonic} (h : dispatch m = some x) : m = x.text := by
  have := List.find?_some h
  simp at this; exact this.symm

/-- The dispatcher finds nothing for any other token. -/
theorem dispatch_none {m : Token} (h : ∀ x : Mnemonic, m ≠ x.text) : dispatch m = none := by
  simp [dispatch]; intro x _; exact fun e => h x e.symm

@[simp] theorem Mnemonic.instr_mnemonic (x : Mnemonic) (a b c : Token) :
    (x.instr a b c).mnemonic = x := by cases x <;> rfl

@[simp] theorem Mnemonic.instr_operands (x : Mnemonic) (a b c : Token) :
    (x.instr a b c).operands = [a, b, c] := by cases x <;> rfl

end Sys2Proof
end

