-- ==== Sys2Proof/Laws/Operands.lean ====
section
/-!
SUPPORT. The operand decoders' building blocks against the declarative readings of Safety.lean: digits,
numerals, and the canonical tokens.
-/
namespace Sys2Proof
open Machine

/-- A digit byte. -/
theorem isDigit_iff (c : Byte) : isDigit c = true ↔ 0x30 ≤ c.toNat ∧ c.toNat ≤ 0x39 := by
  simp [isDigit, BitVec.le_def]

/-- Horner's rule is the place value. -/
theorem decimalValue_eq_placeValue (ds : List Byte) : decimalValue ds = placeValue ds := by
  have key : ∀ (ds : List Byte) (a : Nat),
      ds.foldl (fun n d => 10 * n + (d.toNat - 0x30)) a = a * 10 ^ ds.length + placeValue ds := by
    intro ds
    induction ds with
    | nil => simp [placeValue]
    | cons d ds ih =>
      intro a
      simp only [List.foldl_cons, ih, placeValue, List.length_cons, pow_succ]; ring
  simp [decimalValue, key]

/-- A numeral is what the machine's digit test and value say. -/
theorem numeral_iff (ds : List Byte) (n : Nat) :
    Numeral ds n ↔ isNumeral ds = true ∧ decimalValue ds = n := by
  simp [Numeral, isNumeral, isDigit_iff, decimalValue_eq_placeValue, and_assoc]

/-- A register token is `x` and a numeral. -/
theorem registerToken_iff (t : Token) (n : Nat) :
    RegisterToken t n ↔ ∃ ds, t = 0x78#8 :: ds ∧ isNumeral ds = true ∧ decimalValue ds = n := by
  simp [RegisterToken, numeral_iff]

/-- A digit is no sign. -/
theorem numeral_head_ne_sign {c : Byte} {ds : List Byte} (h : isNumeral (c :: ds) = true) :
    c ≠ 0x2D#8 ∧ c ≠ 0x2B#8 := by
  simp [isNumeral, isDigit_iff] at h
  constructor <;> rintro rfl <;> simp at h

/-- An immediate token is what is left of a numeral after its sign is split off. -/
theorem immediateToken_iff (t : Token) (v : Int) :
    ImmediateToken t v ↔ isNumeral (splitSign t).2 = true ∧
      (splitSign t).1 * (decimalValue (splitSign t).2 : Int) = v := by
  constructor
  · rintro ⟨ds, n, hn, hv⟩
    obtain ⟨h, rfl⟩ := (numeral_iff ds n).1 hn
    clear hn
    rcases hv with ⟨rfl, rfl⟩ | ⟨rfl, rfl⟩ | ⟨rfl, rfl⟩
    · rcases t with _ | ⟨c, cs⟩
      · simp [isNumeral] at h
      · simp [splitSign, numeral_head_ne_sign h, h]
    · simp [splitSign, h]
    · simp [splitSign, h]
  · rintro ⟨h, rfl⟩
    rcases t with _ | ⟨c, cs⟩
    · simp [splitSign, isNumeral] at h
    · refine ⟨_, _, (numeral_iff _ _).2 ⟨h, rfl⟩, ?_⟩
      by_cases h1 : c = 0x2D#8
      · simp [splitSign, h1]
      · by_cases h2 : c = 0x2B#8 <;> simp [splitSign, h1, h2]

/-! ### Canonical tokens -/

/-- A digit's code and its value. -/
theorem digitByte_spec {d : Nat} (h : d < 10) :
    isDigit (digitByte d) = true ∧ (digitByte d).toNat - 0x30 = d := by
  interval_cases d <;> decide

/-- What `digitsOnto` puts in front of its accumulator. -/
theorem digitsOnto_spec (fuel n : Nat) (acc : List Byte) (h : n < fuel) :
    ∃ ds, digitsOnto fuel n acc = ds ++ acc ∧ Numeral ds n := by
  induction fuel generalizing n acc with
  | zero => omega
  | succ fuel ih =>
    rw [digitsOnto]
    have hd := digitByte_spec (d := n % 10) (by omega)
    split
    · refine ⟨[digitByte (n % 10)], rfl, (numeral_iff _ _).2 ⟨by simp [isNumeral, hd.1], ?_⟩⟩
      simp [decimalValue, hd.2]; omega
    · obtain ⟨ds, h1, h2⟩ := ih (n / 10) (digitByte (n % 10) :: acc) (by omega)
      obtain ⟨h3, h4⟩ := (numeral_iff _ _).1 h2
      refine ⟨ds ++ [digitByte (n % 10)], by simp [h1], (numeral_iff _ _).2 ⟨?_, ?_⟩⟩
      · simp [isNumeral] at h3 ⊢
        exact ⟨h3.2, hd.1⟩
      · rw [decimalValue, List.foldl_append, ← decimalValue, h4]; simp [hd.2]; omega

/-- The canonical numeral is worth its number. -/
theorem decimal_numeral (n : Nat) : Numeral (decimal n) n := by
  obtain ⟨ds, h1, h2⟩ := digitsOnto_spec (n + 1) n [] (by omega)
  rw [decimal, h1, List.append_nil]; exact h2

/-- The canonical register token names its register. -/
theorem regToken_registerToken (r : BitVec 5) : RegisterToken (regToken r) r.toNat :=
  ⟨_, rfl, decimal_numeral _⟩

/-- The canonical immediate token is worth its integer. -/
theorem immToken_immediateToken (v : Int) : ImmediateToken (immToken v) v := by
  refine ⟨decimal v.natAbs, v.natAbs, decimal_numeral _, ?_⟩
  rw [immToken]; split
  · right; right; exact ⟨rfl, by omega⟩
  · left; exact ⟨rfl, by omega⟩

end Sys2Proof
end

