-- ==== Sys2Proof/Laws/State.lean ====
section
/-!
SUPPORT. What each operation on State does to each field, so that no later proof unfolds a record update.
-/
namespace Sys2Proof.Machine

/-! ### `countLine` -/

@[simp] theorem State.countLine_immMode (s : State) : s.countLine.immMode = s.immMode := rfl
@[simp] theorem State.countLine_lineNo (s : State) : s.countLine.lineNo = s.lineNo + 1 := rfl
@[simp] theorem State.countLine_errCount (s : State) : s.countLine.errCount = s.errCount := rfl
@[simp] theorem State.countLine_pending (s : State) : s.countLine.pending = s.pending := rfl
@[simp] theorem State.countLine_log (s : State) : s.countLine.log = s.log := rfl

@[simp] theorem State.countLine_currentLine (s : State) :
    s.countLine.currentLine = s.currentLine := rfl

theorem State.currentLine_of_submit {s : State} {line : Line} {rest : List HostOp}
    (h : s.pending = .submit line :: rest) : s.currentLine = line := by
  simp [State.currentLine, h]

/-! ### `countError`, `setImmMode`, `resetRegisters` -/

@[simp] theorem State.countError_immMode (s : State) : s.countError.immMode = s.immMode := rfl
@[simp] theorem State.countError_lineNo (s : State) : s.countError.lineNo = s.lineNo := rfl
@[simp] theorem State.countError_errCount (s : State) :
    s.countError.errCount = nextErrCount s.errCount := rfl
@[simp] theorem State.countError_pending (s : State) : s.countError.pending = s.pending := rfl
@[simp] theorem State.countError_log (s : State) : s.countError.log = s.log := rfl

@[simp] theorem State.setImmMode_immMode (m : ImmMode) (s : State) :
    (s.setImmMode m).immMode = m := rfl
@[simp] theorem State.setImmMode_lineNo (m : ImmMode) (s : State) :
    (s.setImmMode m).lineNo = s.lineNo := rfl
@[simp] theorem State.setImmMode_errCount (m : ImmMode) (s : State) :
    (s.setImmMode m).errCount = s.errCount := rfl
@[simp] theorem State.setImmMode_pending (m : ImmMode) (s : State) :
    (s.setImmMode m).pending = s.pending := rfl
@[simp] theorem State.setImmMode_log (m : ImmMode) (s : State) :
    (s.setImmMode m).log = s.log := rfl

@[simp] theorem State.resetRegisters_immMode (s : State) :
    s.resetRegisters.immMode = .strict := rfl
@[simp] theorem State.resetRegisters_lineNo (s : State) : s.resetRegisters.lineNo = 0 := rfl
@[simp] theorem State.resetRegisters_errCount (s : State) : s.resetRegisters.errCount = 0 := rfl
@[simp] theorem State.resetRegisters_pending (s : State) :
    s.resetRegisters.pending = s.pending := rfl
@[simp] theorem State.resetRegisters_log (s : State) : s.resetRegisters.log = s.log := rfl

/-! ### `complete` -/

@[simp] theorem State.complete_immMode (r : Returned) (s : State) :
    (s.complete r).immMode = s.immMode := by
  unfold State.complete; split <;> rfl

@[simp] theorem State.complete_lineNo (r : Returned) (s : State) :
    (s.complete r).lineNo = s.lineNo := by
  unfold State.complete; split <;> rfl

@[simp] theorem State.complete_errCount (r : Returned) (s : State) :
    (s.complete r).errCount = s.errCount := by
  unfold State.complete; split <;> rfl

@[simp] theorem State.complete_pending (r : Returned) (s : State) :
    (s.complete r).pending = s.pending.tail := by
  unfold State.complete; split <;> simp_all

theorem State.complete_log {r : Returned} {s : State} {op : HostOp} {rest : List HostOp}
    (h : s.pending = op :: rest) : (s.complete r).log = { op := op, ret := r } :: s.log := by
  simp [State.complete, h]

/-- Everything `complete` does when an operation is pending. -/
theorem State.complete_eq {r : Returned} {s : State} {op : HostOp} {rest : List HostOp}
    (h : s.pending = op :: rest) :
    s.complete r = { s with pending := rest, log := { op := op, ret := r } :: s.log } := by
  simp [State.complete, h]

/-! ### `emitWord`, `emitSkip`, `raise` -/

@[simp] theorem State.emitWord_immMode (w : Word) (s : State) :
    (s.emitWord w).immMode = s.immMode := by simp [State.emitWord]
@[simp] theorem State.emitWord_lineNo (w : Word) (s : State) :
    (s.emitWord w).lineNo = s.lineNo := by simp [State.emitWord]
@[simp] theorem State.emitWord_errCount (w : Word) (s : State) :
    (s.emitWord w).errCount = s.errCount := by simp [State.emitWord]
@[simp] theorem State.emitWord_pending (w : Word) (s : State) :
    (s.emitWord w).pending = s.pending.tail := by simp [State.emitWord]

@[simp] theorem State.emitSkip_immMode (s : State) : s.emitSkip.immMode = s.immMode := by
  simp [State.emitSkip]
@[simp] theorem State.emitSkip_lineNo (s : State) : s.emitSkip.lineNo = s.lineNo := by
  simp [State.emitSkip]
@[simp] theorem State.emitSkip_errCount (s : State) : s.emitSkip.errCount = s.errCount := by
  simp [State.emitSkip]
@[simp] theorem State.emitSkip_pending (s : State) : s.emitSkip.pending = s.pending.tail := by
  simp [State.emitSkip]

@[simp] theorem State.raise_immMode (m : Token) (e : LineError) (s : State) :
    (s.raise m e).immMode = s.immMode := by simp [State.raise]
@[simp] theorem State.raise_lineNo (m : Token) (e : LineError) (s : State) :
    (s.raise m e).lineNo = s.lineNo := by simp [State.raise]
@[simp] theorem State.raise_errCount (m : Token) (e : LineError) (s : State) :
    (s.raise m e).errCount = nextErrCount s.errCount := by simp [State.raise]
@[simp] theorem State.raise_pending (m : Token) (e : LineError) (s : State) :
    (s.raise m e).pending = s.pending.tail := by simp [State.raise]

end Sys2Proof.Machine
end

