-- ==== Sys2Proof/Laws/Ops.lean ====
section
/-!
SUPPORT. Each shared operation of a transaction, said once: what it does on the line that is being
submitted, in the terms of `answered` and `rejection`.
-/
namespace Sys2Proof.Machine

/-- The increment of R27 as it stands in `answered`. -/
@[simp] theorem trunc_succ_eq_nextLineNo (n : Word) : trunc 32 (n.toNat + 1) = n + 1 := by
  apply BitVec.eq_of_toNat_eq
  simp [trunc, BitVec.toNat_ofInt]
  omega

/-- Emitting a word ends the transaction as R27 says. -/
theorem emitWord_answered {s : State} {line : Line} {rest : List HostOp} (w : Word)
    (h : s.pending = .submit line :: rest) :
    s.countLine.emitWord w = answered s line rest (.word w) := by
  simp [State.emitWord, State.complete, State.countLine, h, answered, isError, nextLineNo]

/-- Emitting a skip ends the transaction as R27 says. -/
theorem emitSkip_answered {s : State} {line : Line} {rest : List HostOp}
    (h : s.pending = .submit line :: rest) :
    s.countLine.emitSkip = answered s line rest .skip := by
  simp [State.emitSkip, State.complete, State.countLine, h, answered, isError, nextLineNo]

/-- Taking an error ends the transaction as R27 and R205 say. -/
theorem raise_answered {s : State} {line : Line} {rest : List HostOp} (m : Token) (e : LineError)
    (h : s.pending = .submit line :: rest) :
    s.countLine.raise m e = answered s line rest (rejection s line m e) := by
  simp [State.raise, State.complete, State.countLine, State.countError, State.currentLine, h, answered, rejection,
    isError, nextLineNo, nextErrCount, Config.errCountMax]

/-- The response of an instruction's resolved operands. -/
def outcomeResponse (s : State) (line : Line) (m : Mnemonic) : Except LineError Word → Response
  | .ok w => .word w
  | .error e => rejection s line m.text e

/-- Everything `respond` does inside a transaction: it answers a next state, for a word and for an error
alike. -/
theorem respond_answered {s : State} {line : Line} {rest : List HostOp} (m : Mnemonic)
    (r : Except LineError Word) (h : s.pending = .submit line :: rest) :
    respond m r s = .next (answered s line rest (outcomeResponse s line m r)) := by
  cases r with
  | ok w => simp [respond, outcomeResponse, emitWord_answered w h]
  | error e => simp [respond, outcomeResponse, raise_answered m.text e h]

/-- `inOrder` answers a word exactly when all three operands do. -/
theorem inOrder_ok {α β γ : Type} {a : Except LineError α} {b : Except LineError β}
    {c : Except LineError γ} {pack : α → β → γ → Word} {w : Word} :
    inOrder a b c pack = .ok w ↔
      ∃ x y z, a = .ok x ∧ b = .ok y ∧ c = .ok z ∧ pack x y z = w := by
  cases a <;> cases b <;> cases c <;> simp [inOrder]

/-- `inOrder` fails with the error of the first operand that fails. -/
theorem inOrder_error {α β γ : Type} {a : Except LineError α} {b : Except LineError β}
    {c : Except LineError γ} {pack : α → β → γ → Word} {e : LineError} :
    inOrder a b c pack = .error e ↔ FirstError a b c e := by
  cases a <;> cases b <;> cases c <;> simp [inOrder, FirstError]

/-! ### Runs -/

@[simp] theorem run_zero (s : State) : run 0 s = .next s := rfl

/-- A run of `k + 1` steps is a step and a run of `k`. -/
theorem run_succ (k : Nat) (s : State) :
    run (k + 1) s =
      match step s with
      | .next t => run k t
      | .fault r => .fault r
      | .refused r => .refused r := by
  cases h : step s <;> simp [run, Host.Core.run, Sys2Proof.core, h]

end Sys2Proof.Machine
end

