-- ==== Sys2Proof/Laws/Pack.lean ====
section
/-!
SUPPORT. The packer's primitive as plain bit-vector operations, and the bits of a two's-complement pattern.
-/
namespace Sys2Proof.Machine

/-- A pattern that already has the field's width is placed unchanged. -/
theorem field_eq_ofNat {w : Nat} (b : BitVec w) (lsb : Nat) :
    field b.toNat w lsb = b.setWidth 32 <<< lsb := by
  simp [field, trunc]

/-- The same for a pattern read as a signed integer. -/
theorem field_eq_ofInt {w : Nat} (b : BitVec w) (lsb : Nat) :
    field b.toInt w lsb = b.setWidth 32 <<< lsb := by
  simp [field, trunc]

/-- Bit `j` of a pattern is bit `j` of the integer's two's-complement expansion. -/
theorem trunc_getLsbD (v : Int) (w j : Nat) (h : j < w) :
    (trunc w v).getLsbD j = decide ((v / 2 ^ j) % 2 = 1) := by
  rw [BitVec.getLsbD, Nat.testBit_eq_decide_div_mod_eq]
  congr 1
  have h0 : 0 ≤ v % 2 ^ w := Int.emod_nonneg _ (by positivity)
  have hv : (((trunc w v).toNat : Nat) : Int) = v % 2 ^ w := by
    rw [BitVec.toNat_ofInt]; push_cast; rw [Int.toNat_of_nonneg h0]
  rw [eq_iff_iff]
  zify
  rw [hv]
  obtain ⟨k, rfl⟩ := Nat.exists_eq_add_of_lt h
  have split : v = v % 2 ^ (j + k + 1) + 2 ^ j * (2 * (2 ^ k * (v / 2 ^ (j + k + 1)))) := by
    have := (Int.emod_add_mul_ediv v (2 ^ (j + k + 1))).symm
    rw [show (2 : Int) ^ (j + k + 1) * (v / 2 ^ (j + k + 1)) =
      2 ^ j * (2 * (2 ^ k * (v / 2 ^ (j + k + 1)))) by ring] at this
    exact this
  conv_rhs => rw [split]
  rw [Int.add_mul_ediv_left _ _ (by positivity)]
  omega

/-- A slice of a pattern is the pattern of the shifted integer. -/
theorem extractLsb'_trunc (n : Nat) (v : Int) (lo w : Nat) (h : lo + w ≤ n) :
    (trunc n v).extractLsb' lo w = trunc w (v / 2 ^ lo) := by
  apply BitVec.eq_of_getLsbD_eq
  intro i hi
  rw [trunc_getLsbD _ _ _ hi, BitVec.getLsbD_extractLsb', trunc_getLsbD _ _ _ (by omega),
    Int.ediv_ediv_of_nonneg (by positivity), pow_add]
  simp [hi]

end Sys2Proof.Machine
end

