-- ==== Sys2Proof/Laws/PerInstr.lean ====
section
/-!
SUPPORT. Statements about every instruction as syntax, one lemma per constructor.
-/
namespace Sys2Proof.Laws

/-- An instruction is its mnemonic and three operand tokens, and is rebuilt from them (R79, R83). -/
def Rebuild.Statement (i : Instr) : Prop :=
  ∃ t1 t2 t3, i.operands = [t1, t2, t3] ∧ i.mnemonic.instr t1 t2 t3 = i

theorem Rebuild.lw (rd offset rs1 : Token) : Rebuild.Statement (.lw rd offset rs1) :=
  ⟨rd, offset, rs1, rfl, rfl⟩

theorem Rebuild.sw (rs2 offset rs1 : Token) : Rebuild.Statement (.sw rs2 offset rs1) :=
  ⟨rs2, offset, rs1, rfl, rfl⟩

theorem Rebuild.add (rd rs1 rs2 : Token) : Rebuild.Statement (.add rd rs1 rs2) :=
  ⟨rd, rs1, rs2, rfl, rfl⟩

theorem Rebuild.xor (rd rs1 rs2 : Token) : Rebuild.Statement (.xor rd rs1 rs2) :=
  ⟨rd, rs1, rs2, rfl, rfl⟩

theorem Rebuild.addi (rd rs1 imm : Token) : Rebuild.Statement (.addi rd rs1 imm) :=
  ⟨rd, rs1, imm, rfl, rfl⟩

theorem Rebuild.sll (rd rs1 rs2 : Token) : Rebuild.Statement (.sll rd rs1 rs2) :=
  ⟨rd, rs1, rs2, rfl, rfl⟩

theorem Rebuild.bne (rs1 rs2 imm : Token) : Rebuild.Statement (.bne rs1 rs2 imm) :=
  ⟨rs1, rs2, imm, rfl, rfl⟩

end Sys2Proof.Laws
end

