-- ==== Sys2Proof/Laws/Step.lean ====
section
/-!
SUPPORT. What a step does with each of the host's operations, with no `match` left on the pending list.
-/
namespace Sys2Proof.Machine

/-- A step with nothing pending. -/
theorem step_idle {s : State} (h : s.pending = []) : step s = .next s := by
  simp [step, h, idle]

/-- A step that takes `Reset`. -/
theorem step_reset {s : State} {rest : List HostOp} (h : s.pending = .reset :: rest) :
    step s = .next
      { s with immMode := .strict, lineNo := 0, errCount := 0, pending := rest,
               log := { op := .reset, ret := .nothing } :: s.log } := by
  simp [step, h, hostReset, State.complete, State.resetRegisters]

/-- A step that takes `WriteReg`. -/
theorem step_writeReg {s : State} {i : Nat} {v : Word} {rest : List HostOp}
    (h : s.pending = .writeReg i v :: rest) : step s = hostWriteReg i v s := by
  simp [step, h]

/-- A step that takes `ReadReg`. -/
theorem step_readReg {s : State} {i : Nat} {rest : List HostOp}
    (h : s.pending = .readReg i :: rest) : step s = hostReadReg i s := by
  simp [step, h]

/-- A step that takes `Submit` of a line inside the interface. -/
theorem step_submit {s : State} {line : Line} {rest : List HostOp}
    (h : s.pending = .submit line :: rest) (hi : InInterface line) : step s = transact line s := by
  simp [step, h, hostSubmit, (lineInInterface_iff line).2 hi]

/-- The saturated count as a number. -/
theorem nextErrCount_toNat (n : Word) :
    (nextErrCount n).toNat = min (n.toNat + 1) (2 ^ 32 - 1) := by
  rw [nextErrCount, BitVec.toNat_ofNat, Nat.mod_eq_of_lt] <;> simp only [Config.errCountMax]; omega

/-- One more response in the record is one more response delivered, at the end. -/
theorem State.responses_of_log {s t : State} {op : HostOp} {r : Response}
    (h : t.log = { op := op, ret := .response r } :: s.log) : t.responses = s.responses ++ [r] := by
  simp [State.responses, h, responseOf]

end Sys2Proof.Machine
end

