-- ==== Sys2Proof/Tests/Slice0.lean ====
section
/-!
SUPPORT. Our own tests. Expected words and diagnostics are the vectors V<n> and the property vectors of
spec/95_test_vectors.md, or words written out bit by bit from R73 to R79. The second half holds, for
every statement with hypotheses, concrete states and operands that meet them together.
-/
namespace Sys2Proof.Tests
open Sys2Proof.Machine

/-! ### Helpers -/

/-- The bytes of an ASCII text. -/
def asc (s : String) : Line := s.toList.map fun c => BitVec.ofNat 8 c.toNat

/-- The reset state with a policy and the host's operations. -/
def host (m : ImmMode) (ops : List HostOp) : State := { State.reset with immMode := m, pending := ops }

/-- The reset state with a policy and one line to submit. -/
def sub (m : ImmMode) (s : String) : State := host m [.submit (asc s)]

/-- The next state, if the step answers one. -/
def nextState : Outcome → Option State
  | .next t => some t
  | .fault _ => none
  | .refused _ => none

/-- The refusal, if the step answers one. -/
def refusal : Outcome → Option Refusal
  | .next _ => none
  | .fault _ => none
  | .refused q => some q

/-- What one step delivers for one line. -/
def answer (m : ImmMode) (s : String) : Option (List Response) :=
  (nextState (step (sub m s))).map State.responses

/-- The kind, sub-reason, operand index, token and count of the diagnostic that one step delivers for one
line. -/
def diagnosis (m : ImmMode) (s : String) : Option (ErrorKind × SubReason × OperandIndex × Token × Nat) :=
  match (nextState (step (sub m s))).map State.diagnosticSink with
  | some [d] => some (d.kind, d.sub, d.operand, d.token, d.count)
  | _ => none

/-! ### Well-formedness: one ill-formed term for each check -/

theorem test_wf_accepts : (Instr.lw (asc "x1") (asc "-2048") (asc "x31")).wellFormed = true := by decide
theorem test_wf_register_syntax : (Instr.add (asc "r1") (asc "x2") (asc "x3")).wellFormed = false := by
  decide
theorem test_wf_register_range : (Instr.add (asc "x32") (asc "x2") (asc "x3")).wellFormed = false := by
  decide
theorem test_wf_immediate_syntax :
    (Instr.addi (asc "x1") (asc "x2") (asc "0x10")).wellFormed = false := by decide
theorem test_wf_immediate_range :
    (Instr.addi (asc "x1") (asc "x2") (asc "2048")).wellFormed = false := by decide
theorem test_wf_displacement_range :
    (Instr.bne (asc "x1") (asc "x2") (asc "4096")).wellFormed = false := by decide
theorem test_wf_displacement_odd :
    (Instr.bne (asc "x1") (asc "x2") (asc "3")).wellFormed = false := by decide
theorem test_wf_register_spelling :
    (Instr.sll (asc "x01") (asc "x2") (asc "x3")).wellFormed = false := by decide
theorem test_wf_immediate_spelling :
    (Instr.addi (asc "x1") (asc "x2") (asc "+5")).wellFormed = false := by decide

/-! ### Decoding words written out from R73 to R79 -/

/-- V1: imm 0, rs1 2, funct3 010, rd 1, opcode 0000011. -/
theorem test_decode_lw : decodeTableWord 32 0b000000000000_00010_010_00001_0000011 =
    some (.lw (asc "x1") (asc "0") (asc "x2")) := by decide
/-- V2: imm[11:5] 0, rs2 1, rs1 2, funct3 010, imm[4:0] 0, opcode 0100011. -/
theorem test_decode_sw : decodeTableWord 32 0b0000000_00001_00010_010_00000_0100011 =
    some (.sw (asc "x1") (asc "0") (asc "x2")) := by decide
/-- V3: funct7 0, rs2 3, rs1 2, funct3 000, rd 1, opcode 0110011. -/
theorem test_decode_add : decodeTableWord 32 0b0000000_00011_00010_000_00001_0110011 =
    some (.add (asc "x1") (asc "x2") (asc "x3")) := by decide
/-- V58: funct7 0, rs2 12, rs1 11, funct3 100, rd 10, opcode 0110011. -/
theorem test_decode_xor : decodeTableWord 32 0b0000000_01100_01011_100_01010_0110011 =
    some (.xor (asc "x10") (asc "x11") (asc "x12")) := by decide
/-- V4: imm 100, rs1 2, funct3 000, rd 1, opcode 0010011. -/
theorem test_decode_addi : decodeTableWord 32 0b000001100100_00010_000_00001_0010011 =
    some (.addi (asc "x1") (asc "x2") (asc "100")) := by decide
/-- V60: funct7 0, rs2 7, rs1 6, funct3 001, rd 5, opcode 0110011. -/
theorem test_decode_sll : decodeTableWord 32 0b0000000_00111_00110_001_00101_0110011 =
    some (.sll (asc "x5") (asc "x6") (asc "x7")) := by decide
/-- V5: imm[12] 0, imm[10:5] 0, rs2 2, rs1 1, funct3 001, imm[4:1] 1000, imm[11] 0, opcode 1100011. -/
theorem test_decode_bne : decodeTableWord 32 0b0_000000_00010_00001_001_1000_0_1100011 =
    some (.bne (asc "x1") (asc "x2") (asc "16")) := by decide
/-- A displacement of -4096 has imm[12] alone set (R76). -/
theorem test_decode_bne_sign : decodeTableWord 32 0b1_000000_00010_00001_001_0000_0_1100011 =
    some (.bne (asc "x1") (asc "x2") (asc "-4096")) := by decide
/-- The all-ones and all-zeros words lie in no row (R97). -/
theorem test_decode_no_row :
    decodeTableWord 32 0 = none ∧ decodeTableWord 32 0xFFFFFFFF = none := by decide
/-- The encoder, from the rows' match words and field places (V5, V36). -/
theorem test_encode :
    encode (.bne (asc "x1") (asc "x2") (asc "16")) = some 0x00209863 ∧
      encode (.sw (asc "x1") (asc "-2048") (asc "x2")) = some 0x80112023 := by decide

/-! ### Decoding lines -/

theorem test_line_lw_spellings :
    decodeLine (asc "lw x1, 0(x2)") = .instr (.lw (asc "x1") (asc "0") (asc "x2")) ∧
      decodeLine (asc "  lw x1 0 ( x2 ) ") = .instr (.lw (asc "x1") (asc "0") (asc "x2")) := by decide
theorem test_line_structure :
    decodeLine (asc "lw x1, 0, x2") = .rejected (asc "lw") .structureAbsent ∧
      decodeLine (asc "lw x1, (0)x2") = .rejected (asc "lw") .structureAbsent ∧
      decodeLine (asc "sw x1, 0((x2)") = .rejected (asc "sw") .structureAbsent := by decide
theorem test_line_rejections :
    decodeLine (asc "LW x1, 0(x2)") = .rejected (asc "LW") (.unsupportedMnemonic (asc "LW")) ∧
      decodeLine (asc "add x1, x2, x3 # c") = .rejected (asc "add") (.operandCount 5) ∧
      decodeLine (asc ",# x") = .rejected (asc "#") (.unsupportedMnemonic (asc "#")) := by decide
theorem test_line_skips :
    decodeLine [] = .skip ∧ decodeLine (asc "\t  # x") = .skip ∧
      decodeLine (asc ", ,()") = .skip := by decide

/-! ### One step of each instruction -/

/-- V13. -/
theorem test_lw_min : answer .strict "lw x0, -2048(x0)" = some [.word 0x80002003] := by decide
/-- V15: 2048 is masked in legacy mode. -/
theorem test_lw_legacy : answer .legacy "lw x1, 2048(x2)" = some [.word 0x80012083] := by decide
/-- V34: both pieces of the offset, and the first operand in the rs2 field. -/
theorem test_sw_split : answer .strict "sw x1, -1(x2)" = some [.word 0xFE112FA3] := by decide
/-- V38. -/
theorem test_sw_range : diagnosis .strict "sw x1, 4096(x2)" =
    some (.immediateOutOfRange, .range, 2, asc "4096", 0) := by decide
/-- V45: leading zeros do not change a register name. -/
theorem test_add_zeros : answer .strict "add x01, x002, x0003" = some [.word 0x003100B3] := by decide
/-- V57: the first failing operand ends the line. -/
theorem test_add_first_error : diagnosis .strict "add x32, x2, 5000" =
    some (.invalidRegister, .range, 1, asc "x32", 0) := by decide
/-- V58. -/
theorem test_xor : answer .strict "xor x10, x11, x12" = some [.word 0x00C5C533] := by decide
/-- V60. -/
theorem test_sll : answer .strict "sll x5, x6, x7" = some [.word 0x007312B3] := by decide
/-- V62: the shift amount is a register token. -/
theorem test_sll_immediate : diagnosis .legacy "sll x1, x2, 3" =
    some (.invalidRegister, .regSyntax, 3, asc "3", 0) := by decide
/-- V64. -/
theorem test_addi_minus_one : answer .strict "addi x1, x0, -1" = some [.word 0xFFF00093] := by decide
/-- V72. -/
theorem test_addi_register : diagnosis .strict "addi x1, x2, x3" =
    some (.malformedInstruction, .immSyntax, 3, asc "x3", 0) := by decide
/-- V88. -/
theorem test_bne_backward : answer .strict "bne x6, x0, -16" = some [.word 0xFE0318E3] := by decide
/-- V91: the range comes before evenness, and 4095 is inside it. -/
theorem test_bne_odd : diagnosis .strict "bne x1, x2, 4095" =
    some (.immediateOutOfRange, .odd, 3, asc "4095", 0) := by decide

/-! ### The interface -/

/-- V6 with R203: the diagnostic names `foo` and line 1. -/
theorem test_unknown_mnemonic :
    ((nextState (step (sub .strict "foo x1, x2, x3"))).map fun t =>
      (t.diagnosticSink.map fun d => (d.mnemonic, d.lineNo), t.statusWord, t.wordSink)) =
      some ([(asc "foo", 1)], 1, []) := by decide
/-- V102. -/
theorem test_comment_counts :
    ((nextState (step (sub .strict "# comment"))).map fun t => (t.responses, t.lineNo, t.errCount)) =
      some ([.skip], 1, 0) := by decide
/-- R27: ERR_COUNT saturates and LINE_NO wraps. -/
theorem test_counters_at_their_ends :
    ((nextState (step { sub .strict "nop" with lineNo := 0xFFFFFFFF, errCount := 0xFFFFFFFF })).map
      fun t => (t.lineNo, t.errCount)) = some (0, 0xFFFFFFFF) := by decide
/-- R30: a line feed is outside the interface, and so is the 256th byte. -/
theorem test_line_feed :
    refusal (step (host .strict [.submit [0x0A#8]])) = some .lineOutsideInterface := by decide
set_option maxRecDepth 8192 in
theorem test_line_length :
    refusal (step (host .strict [.submit (List.replicate 256 0x20#8)])) =
        some .lineOutsideInterface ∧
      lineInInterface (List.replicate 255 0x20#8) = true := by decide
/-- R29: register 4 does not exist, and a write of CTRL takes bit 0. -/
theorem test_registers :
    refusal (step (host .strict [.readReg 4])) = some (.registerIndexOutsideInterface 4) ∧
      ((nextState (step (host .strict [.writeReg 0 0xFFFFFFFF]))).map State.ctrlWord) = some 1 := by
  decide
/-- V5's rendering. -/
theorem test_render : render 0x00209863 = asc "00000000001000001001100001100011" := by decide
/-- R54: the two raw forms of a word. -/
theorem test_raw_bytes :
    rawBytesIn .little 0x00012083 = [0x83#8, 0x20#8, 0x01#8, 0x00#8] ∧
      rawBytesIn .big 0x00012083 = [0x00#8, 0x01#8, 0x20#8, 0x83#8] := by decide
/-- The word that withFetchWord stands for is the word the next step delivers. -/
theorem test_withFetchWord :
    ((nextState (step (State.reset.withFetchWord 32 0x80209063))).map State.wordSink) =
      some [0x80209063] := by decide

/-! ### Helpers for the witnesses -/

/-- The checks behind `Splits`, on data. -/
def splitsCheck (line : Line) (lead : Separator) (parts : List (Token × Separator)) : Bool :=
  decide (line = lead ++ parts.flatMap fun p => p.1 ++ p.2) && lead.all isDelimiter &&
    parts.all (fun p => !p.1.isEmpty && p.1.all fun c => !isDelimiter c) &&
    parts.all (fun p => p.2.all isDelimiter) && parts.dropLast.all fun p => !p.2.isEmpty

theorem splits_of_check {line : Line} {lead : Separator} {parts : List (Token × Separator)}
    (h : splitsCheck line lead parts = true) : Splits line lead parts := by
  simp only [splitsCheck, Bool.and_eq_true, decide_eq_true_eq, List.all_eq_true, Bool.not_eq_true',
    List.isEmpty_eq_false_iff] at h
  obtain ⟨⟨⟨⟨h1, h2⟩, h3⟩, h4⟩, h5⟩ := h
  exact ⟨h1, fun c hc => (isDelimiter_iff c).1 (h2 c hc),
    fun p hp => ⟨(h3 p hp).1, fun c hc hd => by
      have := (h3 p hp).2 c hc; rw [(isDelimiter_iff c).2 hd] at this; cases this⟩,
    fun p hp c hc => (isDelimiter_iff c).1 (h4 p hp c hc), h5⟩

/-- A line that begins with another byte is no comment line. -/
theorem not_commentLine {c : Byte} {cs : List Byte} (h : c ≠ 0x20#8 ∧ c ≠ 0x09#8 ∧ c ≠ 0x23#8) :
    ¬ CommentLine (c :: cs) := by
  rintro ⟨ws, rest, h1, hw⟩
  rcases ws with _ | ⟨d, ws⟩
  · simp at h1; exact h.2.2 h1.1
  · simp at h1; have := hw d (by simp); rw [← h1.1] at this; tauto

/-- The checks behind `OnLine` for a line that begins with its mnemonic. -/
theorem onLine_of_check {m : ImmMode} {line : Line} {t : Token} {ops : List (Token × Separator)}
    (sep : Separator) (hi : lineInInterface line = true)
    (hc : (line.head?.map fun c => c != 0x20#8 && c != 0x09#8 && c != 0x23#8) = some true)
    (hs : splitsCheck line [] ((t, sep) :: ops) = true) :
    OnLine (host m [.submit line]) line [] t ops := by
  refine ⟨rfl, (lineInInterface_iff line).1 hi, ?_, [], sep, splits_of_check hs⟩
  rcases line with _ | ⟨c, cs⟩
  · simp at hc
  · simp [and_assoc] at hc; exact not_commentLine hc

/-- The checks behind `RegisterToken`. -/
theorem registerToken_of_check {t : Token} {n : Nat}
    (h : (t.head? == some 0x78#8 && isNumeral t.tail && decimalValue t.tail == n) = true) :
    RegisterToken t n := by
  rcases t with _ | ⟨c, ds⟩
  · simp at h
  · simp at h; exact (registerToken_iff _ _).2 ⟨ds, by rw [h.1.1], h.1.2, h.2⟩

/-- The checks behind `ImmediateToken`. -/
theorem immediateToken_of_check {t : Token} {v : Int}
    (h : (isNumeral (splitSign t).2 && (splitSign t).1 * (decimalValue (splitSign t).2 : Int) == v) = true) :
    ImmediateToken t v := by
  simp at h; exact (immediateToken_iff t v).2 h

/-- A token whose part after the sign is no numeral is no immediate token. -/
theorem not_immediateToken {t : Token} (h : isNumeral (splitSign t).2 = false) (v : Int) :
    ¬ ImmediateToken t v := by
  rw [immediateToken_iff, h]; simp

/-- A token that does not begin with `x` is no register token. -/
theorem not_registerToken {c : Byte} {ds : List Byte} (h : c ≠ 0x78#8) (n : Nat) :
    ¬ RegisterToken (c :: ds) n := by
  rintro ⟨ds', h1, -⟩; simp at h1; exact h h1.1

/-! ### Packing: every hypothesis met -/

/-- FieldMasksThenShifts: the widest place at the top of the word, its last bit set, and a register
field at its highest place. -/
theorem witness_FieldMasksThenShifts :
    (7 + 25 ≤ 32 ∧ 31 < 32 ∧ (field (-1) 7 25).getLsbD 31 = true) ∧
      (12 + 20 ≤ 32 ∧ (field (-2048) 12 20).toNat = 0x80000000) ∧
      (5 + 27 ≤ 32 ∧ (field (31#5).toNat 5 27).toNat = 31 * 2 ^ 27) := by decide

/-- BFormatLayout, second clause: two patterns that differ in bit 0 alone. -/
theorem witness_BFormatLayout :
    (16#13).extractLsb 12 1 = (17#13).extractLsb 12 1 ∧ (16#13) ≠ 17#13 := by decide

/-- FormatFieldsReadBack: a word of each format. -/
theorem witness_FormatFieldsReadBack :
    encodeR 0 7 6 1 5 0b0110011 = 0x007312B3 ∧ encodeI 0x064 2 0 1 0b0010011 = 0x06410093 ∧
      encodeS 0xFFF 1 2 2 0b0100011 = 0xFE112FA3 ∧ encodeB 0x1000 2 1 1 0b1100011 = 0x80209063 := by
  decide

/-! ### Encoding and decoding: every hypothesis met -/

/-- The well-formed instructions of DecodeInvertsEncode and CanonicalLineDecodes, one of each row, at
the ends of the operands' ranges. -/
theorem witness_wellFormed :
    (∀ i ∈ [Instr.lw (asc "x31") (asc "-2048") (asc "x0"), .sw (asc "x0") (asc "2047") (asc "x31"),
      .add (asc "x0") (asc "x0") (asc "x0"), .xor (asc "x31") (asc "x31") (asc "x31"),
      .addi (asc "x31") (asc "x0") (asc "-1"), .sll (asc "x31") (asc "x0") (asc "x31"),
      .bne (asc "x0") (asc "x31") (asc "-4096"), .bne (asc "x0") (asc "x31") (asc "4094")],
      i.wellFormed = true) := by decide

/-- DecodeInvertsEncode, second clause: a spelling that is not canonical. -/
theorem witness_DecodeInvertsEncode :
    encode (.addi (asc "x01") (asc "x2") (asc "+5")) = some 0x00510093 := by decide

/-- StrictTuplesAreInjective: two spellings of one instruction. -/
theorem witness_StrictTuplesAreInjective :
    encode (.addi (asc "x1") (asc "x2") (asc "-0")) = some 0x00010093 ∧
      encode (.addi (asc "x001") (asc "x2") (asc "0")) = some 0x00010093 := by decide

/-- EveryTableWordIsEmitted. -/
theorem witness_EveryTableWordIsEmitted :
    0xFE209FE3 < 2 ^ 32 ∧
      decodeTableWord 32 0xFE209FE3 = some (.bne (asc "x1") (asc "x2") (asc "-2")) := by decide

/-- EmittedWordsLieInTheirRow, both clauses. -/
theorem witness_EmittedWordsLieInTheirRow :
    (∃ t, (sub .strict "lw x1, 0(x2)").pending = [.submit (asc "lw x1, 0(x2)")] ∧
      exec (.lw (asc "x1") (asc "0") (asc "x2")) (sub .strict "lw x1, 0(x2)") = .next t ∧
      t.log = { op := .submit (asc "lw x1, 0(x2)"), ret := .response (.word 0x00012083) } :: []) ∧
    ∃ t, step (sub .strict "lw x1, 0(x2)") = .next t ∧
      t.wordSink = (sub .strict "lw x1, 0(x2)").wordSink ++ [0x00012083] :=
  ⟨⟨_, rfl, rfl, by decide⟩, ⟨_, rfl, by decide⟩⟩

/-! ### Operand decoders: every hypothesis met -/

/-- RegisterDecoderVerdict: each of the three verdicts, at the ends of the index range. -/
theorem witness_RegisterDecoderVerdict :
    RegVerdict 1 (asc "x31") (.ok 31) ∧ RegVerdict 1 (asc "x000") (.ok 0) ∧
      RegVerdict 1 (asc "x32") (.error (.registerRange 1 (asc "x32"))) ∧
      RegVerdict 3 (asc "sp") (.error (.registerSyntax 3 (asc "sp"))) :=
  ⟨.index 31 (registerToken_of_check (by decide)) (by decide),
    .index 0 (registerToken_of_check (by decide)) (by decide),
    .range 32 (registerToken_of_check (by decide)) (by decide),
    .form (not_registerToken (by decide))⟩

/-- ImmediateParserVerdict: a signed and an unsigned token, and one that is neither. -/
theorem witness_ImmediateParserVerdict :
    ImmediateToken (asc "-16") (-16) ∧ ImmediateToken (asc "+5") 5 ∧ ImmediateToken (asc "010") 10 ∧
      ∀ v, ¬ ImmediateToken (asc "0x10") v :=
  ⟨immediateToken_of_check (by decide), immediateToken_of_check (by decide),
    immediateToken_of_check (by decide), not_immediateToken (by decide)⟩

/-- StrictModeRejects and LegacyModeMasks: tokens at and beyond each end of both ranges, an odd one, and
one that is no number. -/
theorem witness_immediates :
    ImmediateToken (asc "2047") 2047 ∧ ImmediateToken (asc "2048") 2048 ∧
      ImmediateToken (asc "-2048") (-2048) ∧ ImmediateToken (asc "-2049") (-2049) ∧
      ImmediateToken (asc "4095") 4095 ∧ ImmediateToken (asc "4096") 4096 ∧
      ImmediateToken (asc "-4096") (-4096) ∧ ImmediateToken (asc "-4097") (-4097) ∧
      (4095 : Int) % 2 ≠ 0 ∧ ∀ v, ¬ ImmediateToken (asc "4+4") v :=
  ⟨immediateToken_of_check (by decide), immediateToken_of_check (by decide),
    immediateToken_of_check (by decide), immediateToken_of_check (by decide),
    immediateToken_of_check (by decide), immediateToken_of_check (by decide),
    immediateToken_of_check (by decide), immediateToken_of_check (by decide), by decide,
    not_immediateToken (by decide)⟩

/-- PatternsKeepTheirValue: the ends of both ranges. -/
theorem witness_PatternsKeepTheirValue :
    Fits12 (-2048) ∧ Fits12 2047 ∧ ¬ Fits12 2048 ∧ FitsB (-4096) ∧ FitsB 4095 ∧ ¬ FitsB 4096 := by
  unfold Fits12 FitsB; decide

/-! ### The front end: every hypothesis met -/

/-- TokenizerGivesTheOneDecomposition: a decomposition with a leading run and an empty last run. -/
theorem witness_TokenizerGivesTheOneDecomposition :
    Splits (asc " add x1,x2") (asc " ") [(asc "add", asc " "), (asc "x1", asc ","), (asc "x2", [])] :=
  splits_of_check (by decide)

theorem witness_CommentLinesSkip :
    (sub .strict "\t # lw x1, 0(x2)").pending = [.submit (asc "\t # lw x1, 0(x2)")] ∧
      InInterface (asc "\t # lw x1, 0(x2)") ∧ CommentLine (asc "\t # lw x1, 0(x2)") :=
  ⟨rfl, (lineInInterface_iff _).1 (by decide), asc "\t ", asc " lw x1, 0(x2)", by decide, by decide⟩

theorem witness_BlankLinesSkip :
    (sub .legacy ", ,()").pending = [.submit (asc ", ,()")] ∧ InInterface (asc ", ,()") ∧
      ∀ c ∈ asc ", ,()", Delimiter c :=
  ⟨rfl, (lineInInterface_iff _).1 (by decide), fun c hc => (isDelimiter_iff c).1 (by revert c; decide)⟩

theorem witness_UnknownMnemonicRejected :
    OnLine (sub .strict "nop") (asc "nop") [] (asc "nop") [] ∧ ∀ x : Mnemonic, asc "nop" ≠ x.text :=
  ⟨onLine_of_check [] (by decide) (by decide) (by decide), fun x => by cases x <;> decide⟩

/-- SameTokensSameInstruction, for a mnemonic that needs the structure and for one that does not. -/
theorem witness_SameTokensSameInstruction :
    (¬ CommentLine (asc "sw x1, 4( x2)") ∧
      Splits (asc "sw x1, 4( x2)") []
        [(Mnemonic.sw.text, asc " "), (asc "x1", asc ", "), (asc "4", asc "( "), (asc "x2", asc ")")] ∧
      HasStructure (asc "sw x1, 4( x2)") (asc "( ") (asc ")")) ∧
    ¬ CommentLine (asc "add,x1,,x2,x3") ∧
      Splits (asc "add,x1,,x2,x3") []
        [(Mnemonic.add.text, asc ","), (asc "x1", asc ",,"), (asc "x2", asc ","), (asc "x3", [])] :=
  ⟨⟨not_commentLine (by decide), splits_of_check (by decide),
      (structureOk_iff _ _ _).1 (by decide)⟩,
    not_commentLine (by decide), splits_of_check (by decide)⟩

/-! ### The seven instructions: every hypothesis of every clause met -/

/-! First clauses: operands that encode, at the ends of the ranges in strict mode and beyond them in
legacy mode. -/

theorem witness_lw_encodes :
    ((sub .strict "lw x31, -2048(x0)").pending = [.submit (asc "lw x31, -2048(x0)")] ∧
      RegisterToken (asc "x31") 31 ∧ 31 ≤ 31 ∧
      ImmediateToken (asc "-2048") (-2048) ∧
        ((sub .strict "lw x31, -2048(x0)").immMode = .strict → Fits12 (-2048)) ∧
      RegisterToken (asc "x0") 0 ∧ 0 ≤ 31) ∧
    ((sub .legacy "lw x31, 2048(x0)").pending = [.submit (asc "lw x31, 2048(x0)")] ∧
      RegisterToken (asc "x31") 31 ∧ 31 ≤ 31 ∧
      ImmediateToken (asc "2048") (2048) ∧
        ((sub .legacy "lw x31, 2048(x0)").immMode = .strict → Fits12 (2048)) ∧
      RegisterToken (asc "x0") 0 ∧ 0 ≤ 31) :=
  ⟨⟨rfl, registerToken_of_check (by decide), by decide,
      immediateToken_of_check (by decide), (fun _ => by unfold Fits12; decide),
      registerToken_of_check (by decide), by decide⟩,
    ⟨rfl, registerToken_of_check (by decide), by decide,
      immediateToken_of_check (by decide), (fun h => by cases h),
      registerToken_of_check (by decide), by decide⟩⟩

theorem witness_sw_encodes :
    ((sub .strict "sw x0, 2047(x31)").pending = [.submit (asc "sw x0, 2047(x31)")] ∧
      RegisterToken (asc "x0") 0 ∧ 0 ≤ 31 ∧
      ImmediateToken (asc "2047") (2047) ∧
        ((sub .strict "sw x0, 2047(x31)").immMode = .strict → Fits12 (2047)) ∧
      RegisterToken (asc "x31") 31 ∧ 31 ≤ 31) ∧
    ((sub .legacy "sw x0, -2049(x31)").pending = [.submit (asc "sw x0, -2049(x31)")] ∧
      RegisterToken (asc "x0") 0 ∧ 0 ≤ 31 ∧
      ImmediateToken (asc "-2049") (-2049) ∧
        ((sub .legacy "sw x0, -2049(x31)").immMode = .strict → Fits12 (-2049)) ∧
      RegisterToken (asc "x31") 31 ∧ 31 ≤ 31) :=
  ⟨⟨rfl, registerToken_of_check (by decide), by decide,
      immediateToken_of_check (by decide), (fun _ => by unfold Fits12; decide),
      registerToken_of_check (by decide), by decide⟩,
    ⟨rfl, registerToken_of_check (by decide), by decide,
      immediateToken_of_check (by decide), (fun h => by cases h),
      registerToken_of_check (by decide), by decide⟩⟩

theorem witness_add_encodes :
    ((sub .strict "add x31, x0, x07").pending = [.submit (asc "add x31, x0, x07")] ∧
      RegisterToken (asc "x31") 31 ∧ 31 ≤ 31 ∧
      RegisterToken (asc "x0") 0 ∧ 0 ≤ 31 ∧
      RegisterToken (asc "x07") 7 ∧ 7 ≤ 31) :=
  ⟨rfl, registerToken_of_check (by decide), by decide,
      registerToken_of_check (by decide), by decide, registerToken_of_check (by decide), by decide⟩

theorem witness_xor_encodes :
    ((sub .strict "xor x31, x0, x07").pending = [.submit (asc "xor x31, x0, x07")] ∧
      RegisterToken (asc "x31") 31 ∧ 31 ≤ 31 ∧
      RegisterToken (asc "x0") 0 ∧ 0 ≤ 31 ∧
      RegisterToken (asc "x07") 7 ∧ 7 ≤ 31) :=
  ⟨rfl, registerToken_of_check (by decide), by decide,
      registerToken_of_check (by decide), by decide, registerToken_of_check (by decide), by decide⟩

theorem witness_sll_encodes :
    ((sub .strict "sll x31, x0, x07").pending = [.submit (asc "sll x31, x0, x07")] ∧
      RegisterToken (asc "x31") 31 ∧ 31 ≤ 31 ∧
      RegisterToken (asc "x0") 0 ∧ 0 ≤ 31 ∧
      RegisterToken (asc "x07") 7 ∧ 7 ≤ 31) :=
  ⟨rfl, registerToken_of_check (by decide), by decide,
      registerToken_of_check (by decide), by decide, registerToken_of_check (by decide), by decide⟩

theorem witness_addi_encodes :
    ((sub .strict "addi x1, x31, 2047").pending = [.submit (asc "addi x1, x31, 2047")] ∧
      RegisterToken (asc "x1") 1 ∧ 1 ≤ 31 ∧
      RegisterToken (asc "x31") 31 ∧ 31 ≤ 31 ∧
      ImmediateToken (asc "2047") (2047) ∧
        ((sub .strict "addi x1, x31, 2047").immMode = .strict → Fits12 (2047))) ∧
    ((sub .legacy "addi x1, x31, 5000").pending = [.submit (asc "addi x1, x31, 5000")] ∧
      RegisterToken (asc "x1") 1 ∧ 1 ≤ 31 ∧
      RegisterToken (asc "x31") 31 ∧ 31 ≤ 31 ∧
      ImmediateToken (asc "5000") (5000) ∧
        ((sub .legacy "addi x1, x31, 5000").immMode = .strict → Fits12 (5000))) :=
  ⟨⟨rfl, registerToken_of_check (by decide), by decide, registerToken_of_check (by decide), by decide,
      immediateToken_of_check (by decide), fun _ => by unfold Fits12; decide⟩,
    ⟨rfl, registerToken_of_check (by decide), by decide, registerToken_of_check (by decide), by decide,
      immediateToken_of_check (by decide), fun h => by cases h⟩⟩

theorem witness_bne_encodes :
    ((sub .strict "bne x0, x31, -4096").pending = [.submit (asc "bne x0, x31, -4096")] ∧
      RegisterToken (asc "x0") 0 ∧ 0 ≤ 31 ∧
      RegisterToken (asc "x31") 31 ∧ 31 ≤ 31 ∧
      ImmediateToken (asc "-4096") (-4096) ∧
        ((sub .strict "bne x0, x31, -4096").immMode = .strict → FitsB (-4096) ∧ (-4096 : Int) % 2 = 0)) ∧
    ((sub .strict "bne x0, x31, 4094").pending = [.submit (asc "bne x0, x31, 4094")] ∧
      RegisterToken (asc "x0") 0 ∧ 0 ≤ 31 ∧
      RegisterToken (asc "x31") 31 ∧ 31 ≤ 31 ∧
      ImmediateToken (asc "4094") (4094) ∧
        ((sub .strict "bne x0, x31, 4094").immMode = .strict → FitsB (4094) ∧ (4094 : Int) % 2 = 0)) ∧
    ((sub .legacy "bne x0, x31, 4097").pending = [.submit (asc "bne x0, x31, 4097")] ∧
      RegisterToken (asc "x0") 0 ∧ 0 ≤ 31 ∧
      RegisterToken (asc "x31") 31 ∧ 31 ≤ 31 ∧
      ImmediateToken (asc "4097") (4097) ∧
        ((sub .legacy "bne x0, x31, 4097").immMode = .strict → FitsB (4097) ∧ (4097 : Int) % 2 = 0)) :=
  ⟨⟨rfl, registerToken_of_check (by decide), by decide, registerToken_of_check (by decide), by decide,
      immediateToken_of_check (by decide), fun _ => by unfold FitsB; decide⟩,
    ⟨rfl, registerToken_of_check (by decide), by decide, registerToken_of_check (by decide), by decide,
      immediateToken_of_check (by decide), fun _ => by unfold FitsB; decide⟩,
    ⟨rfl, registerToken_of_check (by decide), by decide, registerToken_of_check (by decide), by decide,
      immediateToken_of_check (by decide), fun h => by cases h⟩⟩

/-! Second clauses: each operand failing first, and each way it fails. -/

theorem witness_lw_rejects :
    ((sub .strict "lw x32, 2048(sp)").pending = [.submit (asc "lw x32, 2048(sp)")] ∧
      RegVerdict 1 (asc "x32") (.error (.registerRange 1 (asc "x32"))) ∧
      Imm12Verdict .strict 2 (asc "2048") (.error (.immediateRange 2 (asc "2048"))) ∧
      RegVerdict 3 (asc "sp") (.error (.registerSyntax 3 (asc "sp"))) ∧
      FirstError (.error (.registerRange 1 (asc "x32")) : Except LineError (BitVec 5))
        (.error (.immediateRange 2 (asc "2048")) : Except LineError (BitVec 12))
        (.error (.registerSyntax 3 (asc "sp")) : Except LineError (BitVec 5))
        (.registerRange 1 (asc "x32"))) ∧
    ((sub .legacy "lw x31, 0x10(sp)").pending = [.submit (asc "lw x31, 0x10(sp)")] ∧
      RegVerdict 1 (asc "x31") (.ok 31) ∧
      Imm12Verdict .legacy 2 (asc "0x10") (.error (.immediateSyntax 2 (asc "0x10"))) ∧
      RegVerdict 3 (asc "sp") (.error (.registerSyntax 3 (asc "sp"))) ∧
      FirstError (.ok 31 : Except LineError (BitVec 5))
        (.error (.immediateSyntax 2 (asc "0x10")) : Except LineError (BitVec 12))
        (.error (.registerSyntax 3 (asc "sp")) : Except LineError (BitVec 5))
        (.immediateSyntax 2 (asc "0x10"))) :=
  ⟨⟨rfl,
      .range 32 (registerToken_of_check (by decide)) (by decide),
      .range (2048) (immediateToken_of_check (by decide)) rfl (by unfold Fits12; decide),
      .form (not_registerToken (by decide)),
      .inl rfl⟩,
    ⟨rfl,
      .index 31 (registerToken_of_check (by decide)) (by decide),
      .form (not_immediateToken (by decide)),
      .form (not_registerToken (by decide)),
      .inr (.inl ⟨_, rfl, rfl⟩)⟩⟩

theorem witness_sw_rejects :
    ((sub .strict "sw x0, -2049(x32)").pending = [.submit (asc "sw x0, -2049(x32)")] ∧
      RegVerdict 1 (asc "x0") (.ok 0) ∧
      Imm12Verdict .strict 2 (asc "-2049") (.error (.immediateRange 2 (asc "-2049"))) ∧
      RegVerdict 3 (asc "x32") (.error (.registerRange 3 (asc "x32"))) ∧
      FirstError (.ok 0 : Except LineError (BitVec 5))
        (.error (.immediateRange 2 (asc "-2049")) : Except LineError (BitVec 12))
        (.error (.registerRange 3 (asc "x32")) : Except LineError (BitVec 5))
        (.immediateRange 2 (asc "-2049"))) ∧
    ((sub .strict "sw x0, 2047(x32)").pending = [.submit (asc "sw x0, 2047(x32)")] ∧
      RegVerdict 1 (asc "x0") (.ok 0) ∧
      Imm12Verdict .strict 2 (asc "2047") (.ok (trunc 12 (2047))) ∧
      RegVerdict 3 (asc "x32") (.error (.registerRange 3 (asc "x32"))) ∧
      FirstError (.ok 0 : Except LineError (BitVec 5))
        (.ok (trunc 12 (2047)) : Except LineError (BitVec 12))
        (.error (.registerRange 3 (asc "x32")) : Except LineError (BitVec 5))
        (.registerRange 3 (asc "x32"))) :=
  ⟨⟨rfl,
      .index 0 (registerToken_of_check (by decide)) (by decide),
      .range (-2049) (immediateToken_of_check (by decide)) rfl (by unfold Fits12; decide),
      .range 32 (registerToken_of_check (by decide)) (by decide),
      .inr (.inl ⟨_, rfl, rfl⟩)⟩,
    ⟨rfl,
      .index 0 (registerToken_of_check (by decide)) (by decide),
      .pattern (2047) (immediateToken_of_check (by decide)) (fun _ => by unfold Fits12; decide),
      .range 32 (registerToken_of_check (by decide)) (by decide),
      .inr (.inr ⟨_, _, rfl, rfl, rfl⟩)⟩⟩

theorem witness_add_rejects :
    ((sub .legacy "add x31, x0, 3").pending = [.submit (asc "add x31, x0, 3")] ∧
      RegVerdict 1 (asc "x31") (.ok 31) ∧
      RegVerdict 2 (asc "x0") (.ok 0) ∧
      RegVerdict 3 (asc "3") (.error (.registerSyntax 3 (asc "3"))) ∧
      FirstError (.ok 31 : Except LineError (BitVec 5))
        (.ok 0 : Except LineError (BitVec 5))
        (.error (.registerSyntax 3 (asc "3")) : Except LineError (BitVec 5))
        (.registerSyntax 3 (asc "3"))) :=
  ⟨rfl,
      .index 31 (registerToken_of_check (by decide)) (by decide),
      .index 0 (registerToken_of_check (by decide)) (by decide),
      .form (not_registerToken (by decide)),
      .inr (.inr ⟨_, _, rfl, rfl, rfl⟩)⟩

theorem witness_xor_rejects :
    ((sub .legacy "xor x31, x0, 3").pending = [.submit (asc "xor x31, x0, 3")] ∧
      RegVerdict 1 (asc "x31") (.ok 31) ∧
      RegVerdict 2 (asc "x0") (.ok 0) ∧
      RegVerdict 3 (asc "3") (.error (.registerSyntax 3 (asc "3"))) ∧
      FirstError (.ok 31 : Except LineError (BitVec 5))
        (.ok 0 : Except LineError (BitVec 5))
        (.error (.registerSyntax 3 (asc "3")) : Except LineError (BitVec 5))
        (.registerSyntax 3 (asc "3"))) :=
  ⟨rfl,
      .index 31 (registerToken_of_check (by decide)) (by decide),
      .index 0 (registerToken_of_check (by decide)) (by decide),
      .form (not_registerToken (by decide)),
      .inr (.inr ⟨_, _, rfl, rfl, rfl⟩)⟩

theorem witness_sll_rejects :
    ((sub .legacy "sll x31, x0, 3").pending = [.submit (asc "sll x31, x0, 3")] ∧
      RegVerdict 1 (asc "x31") (.ok 31) ∧
      RegVerdict 2 (asc "x0") (.ok 0) ∧
      RegVerdict 3 (asc "3") (.error (.registerSyntax 3 (asc "3"))) ∧
      FirstError (.ok 31 : Except LineError (BitVec 5))
        (.ok 0 : Except LineError (BitVec 5))
        (.error (.registerSyntax 3 (asc "3")) : Except LineError (BitVec 5))
        (.registerSyntax 3 (asc "3"))) :=
  ⟨rfl,
      .index 31 (registerToken_of_check (by decide)) (by decide),
      .index 0 (registerToken_of_check (by decide)) (by decide),
      .form (not_registerToken (by decide)),
      .inr (.inr ⟨_, _, rfl, rfl, rfl⟩)⟩

theorem witness_addi_rejects :
    ((sub .strict "addi x1, x2, 2048").pending = [.submit (asc "addi x1, x2, 2048")] ∧
      RegVerdict 1 (asc "x1") (.ok 1) ∧
      RegVerdict 2 (asc "x2") (.ok 2) ∧
      Imm12Verdict .strict 3 (asc "2048") (.error (.immediateRange 3 (asc "2048"))) ∧
      FirstError (.ok 1 : Except LineError (BitVec 5))
        (.ok 2 : Except LineError (BitVec 5))
        (.error (.immediateRange 3 (asc "2048")) : Except LineError (BitVec 12))
        (.immediateRange 3 (asc "2048"))) ∧
    ((sub .strict "addi x1, x40, 0").pending = [.submit (asc "addi x1, x40, 0")] ∧
      RegVerdict 1 (asc "x1") (.ok 1) ∧
      RegVerdict 2 (asc "x40") (.error (.registerRange 2 (asc "x40"))) ∧
      Imm12Verdict .strict 3 (asc "0") (.ok (trunc 12 (0))) ∧
      FirstError (.ok 1 : Except LineError (BitVec 5))
        (.error (.registerRange 2 (asc "x40")) : Except LineError (BitVec 5))
        (.ok (trunc 12 (0)) : Except LineError (BitVec 12))
        (.registerRange 2 (asc "x40"))) :=
  ⟨⟨rfl,
      .index 1 (registerToken_of_check (by decide)) (by decide),
      .index 2 (registerToken_of_check (by decide)) (by decide),
      .range (2048) (immediateToken_of_check (by decide)) rfl (by unfold Fits12; decide),
      .inr (.inr ⟨_, _, rfl, rfl, rfl⟩)⟩,
    ⟨rfl,
      .index 1 (registerToken_of_check (by decide)) (by decide),
      .range 40 (registerToken_of_check (by decide)) (by decide),
      .pattern (0) (immediateToken_of_check (by decide)) (fun _ => by unfold Fits12; decide),
      .inr (.inl ⟨_, rfl, rfl⟩)⟩⟩

theorem witness_bne_rejects :
    ((sub .strict "bne x1, x2, 4096").pending = [.submit (asc "bne x1, x2, 4096")] ∧
      RegVerdict 1 (asc "x1") (.ok 1) ∧
      RegVerdict 2 (asc "x2") (.ok 2) ∧
      ImmBVerdict .strict 3 (asc "4096") (.error (.immediateRange 3 (asc "4096"))) ∧
      FirstError (.ok 1 : Except LineError (BitVec 5))
        (.ok 2 : Except LineError (BitVec 5))
        (.error (.immediateRange 3 (asc "4096")) : Except LineError (BitVec 13))
        (.immediateRange 3 (asc "4096"))) ∧
    ((sub .strict "bne x1, x2, 4095").pending = [.submit (asc "bne x1, x2, 4095")] ∧
      RegVerdict 1 (asc "x1") (.ok 1) ∧
      RegVerdict 2 (asc "x2") (.ok 2) ∧
      ImmBVerdict .strict 3 (asc "4095") (.error (.immediateOdd 3 (asc "4095"))) ∧
      FirstError (.ok 1 : Except LineError (BitVec 5))
        (.ok 2 : Except LineError (BitVec 5))
        (.error (.immediateOdd 3 (asc "4095")) : Except LineError (BitVec 13))
        (.immediateOdd 3 (asc "4095"))) ∧
    ((sub .legacy "bne x1, x2, loop").pending = [.submit (asc "bne x1, x2, loop")] ∧
      RegVerdict 1 (asc "x1") (.ok 1) ∧
      RegVerdict 2 (asc "x2") (.ok 2) ∧
      ImmBVerdict .legacy 3 (asc "loop") (.error (.immediateSyntax 3 (asc "loop"))) ∧
      FirstError (.ok 1 : Except LineError (BitVec 5))
        (.ok 2 : Except LineError (BitVec 5))
        (.error (.immediateSyntax 3 (asc "loop")) : Except LineError (BitVec 13))
        (.immediateSyntax 3 (asc "loop"))) :=
  ⟨⟨rfl,
      .index 1 (registerToken_of_check (by decide)) (by decide),
      .index 2 (registerToken_of_check (by decide)) (by decide),
      .range (4096) (immediateToken_of_check (by decide)) rfl (by unfold FitsB; decide),
      .inr (.inr ⟨_, _, rfl, rfl, rfl⟩)⟩,
    ⟨rfl,
      .index 1 (registerToken_of_check (by decide)) (by decide),
      .index 2 (registerToken_of_check (by decide)) (by decide),
      .odd (4095) (immediateToken_of_check (by decide)) rfl (by unfold FitsB; decide) (by decide),
      .inr (.inr ⟨_, _, rfl, rfl, rfl⟩)⟩,
    ⟨rfl,
      .index 1 (registerToken_of_check (by decide)) (by decide),
      .index 2 (registerToken_of_check (by decide)) (by decide),
      .form (not_immediateToken (by decide)),
      .inr (.inr ⟨_, _, rfl, rfl, rfl⟩)⟩⟩

/-! Third and fourth clauses. -/

/-- A line of each instruction with a wrong number of operand tokens: their third clauses, from no
operand to one too many. -/
theorem witness_counts :
    OnLine (sub .strict "lw") (asc "lw") [] [0x6C#8, 0x77#8] [] ∧
      OnLine (sub .strict "sw x1, 0") (asc "sw x1, 0") [] [0x73#8, 0x77#8]
        [(asc "x1", asc ", "), (asc "0", [])] ∧
      OnLine (sub .strict "add x1") (asc "add x1") [] [0x61#8, 0x64#8, 0x64#8] [(asc "x1", [])] ∧
      OnLine (sub .strict "xor x1") (asc "xor x1") [] [0x78#8, 0x6F#8, 0x72#8] [(asc "x1", [])] ∧
      OnLine (sub .strict "sll x1") (asc "sll x1") [] [0x73#8, 0x6C#8, 0x6C#8] [(asc "x1", [])] ∧
      OnLine (sub .strict "addi a b c d") (asc "addi a b c d") [] [0x61#8, 0x64#8, 0x64#8, 0x69#8]
        [(asc "a", asc " "), (asc "b", asc " "), (asc "c", asc " "), (asc "d", [])] ∧
      OnLine (sub .strict "bne 1 2 3 4") (asc "bne 1 2 3 4") [] [0x62#8, 0x6E#8, 0x65#8]
        [(asc "1", asc " "), (asc "2", asc " "), (asc "3", asc " "), (asc "4", [])] :=
  ⟨onLine_of_check [] (by decide) (by decide) (by decide),
    onLine_of_check (asc " ") (by decide) (by decide) (by decide),
    onLine_of_check (asc " ") (by decide) (by decide) (by decide),
    onLine_of_check (asc " ") (by decide) (by decide) (by decide),
    onLine_of_check (asc " ") (by decide) (by decide) (by decide),
    onLine_of_check (asc " ") (by decide) (by decide) (by decide),
    onLine_of_check (asc " ") (by decide) (by decide) (by decide)⟩

/-- A line of each instruction with three operand tokens, with and without the structure for `lw` and
`sw`: their fourth clauses. -/
theorem witness_three_operands :
    (OnLine (sub .strict "lw x1, 0(x2)") (asc "lw x1, 0(x2)") [] [0x6C#8, 0x77#8]
        [(asc "x1", asc ", "), (asc "0", asc "("), (asc "x2", asc ")")] ∧
      HasStructure (asc "lw x1, 0(x2)") (asc "(") (asc ")")) ∧
    (OnLine (sub .strict "lw x1, 0, x2") (asc "lw x1, 0, x2") [] [0x6C#8, 0x77#8]
        [(asc "x1", asc ", "), (asc "0", asc ", "), (asc "x2", [])] ∧
      ¬ HasStructure (asc "lw x1, 0, x2") (asc ", ") []) ∧
    (OnLine (sub .strict "sw x1, 0(x2)") (asc "sw x1, 0(x2)") [] [0x73#8, 0x77#8]
        [(asc "x1", asc ", "), (asc "0", asc "("), (asc "x2", asc ")")] ∧
      HasStructure (asc "sw x1, 0(x2)") (asc "(") (asc ")")) ∧
    (OnLine (sub .strict "sw x1, (0)x2") (asc "sw x1, (0)x2") [] [0x73#8, 0x77#8]
        [(asc "x1", asc ", ("), (asc "0", asc ")"), (asc "x2", [])] ∧
      ¬ HasStructure (asc "sw x1, (0)x2") (asc ")") []) :=
  ⟨⟨onLine_of_check (asc " ") (by decide) (by decide) (by decide),
      (structureOk_iff _ _ _).1 (by decide)⟩,
    ⟨onLine_of_check (asc " ") (by decide) (by decide) (by decide),
      fun h => absurd ((structureOk_iff _ _ _).2 h) (by decide)⟩,
    ⟨onLine_of_check (asc " ") (by decide) (by decide) (by decide),
      (structureOk_iff _ _ _).1 (by decide)⟩,
    onLine_of_check (asc " ") (by decide) (by decide) (by decide),
    fun h => absurd ((structureOk_iff _ _ _).2 h) (by decide)⟩

theorem witness_three_operands_unstructured :
    OnLine (sub .strict "add x1 x2 x3") (asc "add x1 x2 x3") [] [0x61#8, 0x64#8, 0x64#8]
        [(asc "x1", asc " "), (asc "x2", asc " "), (asc "x3", [])] ∧
      OnLine (sub .strict "xor x1 x2 x3") (asc "xor x1 x2 x3") [] [0x78#8, 0x6F#8, 0x72#8]
        [(asc "x1", asc " "), (asc "x2", asc " "), (asc "x3", [])] ∧
      OnLine (sub .strict "sll x1 x2 x3") (asc "sll x1 x2 x3") [] [0x73#8, 0x6C#8, 0x6C#8]
        [(asc "x1", asc " "), (asc "x2", asc " "), (asc "x3", [])] ∧
      OnLine (sub .strict "addi x1 x2 3") (asc "addi x1 x2 3") [] [0x61#8, 0x64#8, 0x64#8, 0x69#8]
        [(asc "x1", asc " "), (asc "x2", asc " "), (asc "3", [])] ∧
      OnLine (sub .strict "bne x1 x2 4") (asc "bne x1 x2 4") [] [0x62#8, 0x6E#8, 0x65#8]
        [(asc "x1", asc " "), (asc "x2", asc " "), (asc "4", [])] :=
  ⟨onLine_of_check (asc " ") (by decide) (by decide) (by decide),
    onLine_of_check (asc " ") (by decide) (by decide) (by decide),
    onLine_of_check (asc " ") (by decide) (by decide) (by decide),
    onLine_of_check (asc " ") (by decide) (by decide) (by decide),
    onLine_of_check (asc " ") (by decide) (by decide) (by decide)⟩

/-- InstructionFrame: a meaning that answers a word and one that answers an error. -/
theorem witness_InstructionFrame :
    (nextState (exec (.sll (asc "x1") (asc "x2") (asc "x3")) (sub .strict "sll x1, x2, x3"))).isSome =
        true ∧
      (nextState (exec (.sll (asc "x1") (asc "x2") (asc "3")) (sub .strict "sll x1, x2, 3"))).isSome =
        true := by decide

/-- StepRunsTheDecodedInstruction. -/
theorem witness_StepRunsTheDecodedInstruction :
    InInterface (asc "lw x1, 0(x2)") ∧
      decodeLine (asc "lw x1, 0(x2)") = .instr (.lw (asc "x1") (asc "0") (asc "x2")) :=
  ⟨(lineInInterface_iff _).1 (by decide), by decide⟩

/-! ### The transaction and the machine: every hypothesis met -/

/-- StepRefinesEncode, ResponsesAreLineIndependent and LinesOutsideTheInterfaceAreRefused: a submitted
line inside the interface, in two states that differ in counters and later operations, and one
outside. -/
theorem witness_submitted_lines :
    (sub .strict "nop").pending = .submit (asc "nop") :: [] ∧
      ({ host .strict [.submit (asc "nop"), .reset] with lineNo := 7 } : State).pending =
        .submit (asc "nop") :: [.reset] ∧
      InInterface (asc "nop") ∧ ¬ InInterface [0x00#8] :=
  ⟨rfl, rfl, (lineInInterface_iff _).1 (by decide),
    fun h => absurd ((lineInInterface_iff _).2 h) (by decide)⟩

/-- DiagnosticRecordsTheError, ErrorEntryEffect and ResponseCodesAreLegal: a step that answers an error,
for a whole-line error and for an operand's. -/
theorem witness_error_responses :
    (∃ t d, step (sub .strict "nop") = .next t ∧
      t.log = { op := .submit (asc "nop"), ret := .response (.error d) } :: [] ∧
      d.kind = .unsupportedMnemonic) ∧
    (∃ t d, step (sub .strict "lw x1, 0, x2") = .next t ∧
      t.log = { op := .submit (asc "lw x1, 0, x2"), ret := .response (.error d) } :: [] ∧
      d.sub = .structureAbsent) ∧
    (∃ t d, step (sub .strict "lw x1") = .next t ∧
      t.log = { op := .submit (asc "lw x1"), ret := .response (.error d) } :: [] ∧
      d.sub = .count) ∧
    ∃ t d, step (sub .strict "bne x1, x2, 3") = .next t ∧
      t.log = { op := .submit (asc "bne x1, x2, 3"), ret := .response (.error d) } :: [] ∧
      d.sub = .odd :=
  ⟨⟨_, _, rfl, rfl, by decide⟩, ⟨_, _, rfl, rfl, by decide⟩, ⟨_, _, rfl, rfl, by decide⟩,
    ⟨_, _, rfl, rfl, by decide⟩⟩

/-- DiagnosticRecordsTheError, the operand clause: each other cause of an operand error, at the first
value that fails. -/
theorem witness_operand_causes :
    OperandCause .legacy (asc "x32") .reg .invalidRegister .range ∧
      OperandCause .legacy (asc "sp") .reg .invalidRegister .regSyntax ∧
      OperandCause .legacy (asc "loop") .immB .malformedInstruction .immSyntax ∧
      OperandCause .strict (asc "2048") .imm12 .immediateOutOfRange .range ∧
      OperandCause .strict (asc "4096") .immB .immediateOutOfRange .range ∧
      OperandCause .strict (asc "4095") .immB .immediateOutOfRange .odd :=
  ⟨.registerRange 32 (registerToken_of_check (by decide)) (by decide),
    .registerSyntax (not_registerToken (by decide)),
    .immediateSyntax .immB (by decide) (not_immediateToken (by decide)),
    .range12 2048 (immediateToken_of_check (by decide)) rfl (by unfold Fits12; decide),
    .rangeB 4096 (immediateToken_of_check (by decide)) rfl (by unfold FitsB; decide),
    .oddB 4095 (immediateToken_of_check (by decide)) rfl (by unfold FitsB; decide) (by decide)⟩

/-- V30, V89 and R201: the codes a register range error and an odd displacement carry. -/
theorem test_codes :
    (answer .strict "lw x32, 0(x2)").map (·.map fun r => (respCode r, respSub r)) = some [(4, 5)] ∧
      (answer .strict "bne x1, x2, 3").map (·.map fun r => (respCode r, respSub r)) =
        some [(5, 6)] := by decide

/-- ResponseCodesAreLegal: a step that answers a word and one that answers a skip. -/
theorem witness_ResponseCodesAreLegal :
    answer .strict "add x1, x2, x3" = some [.word 0x003100B3] ∧ answer .strict "" = some [.skip] := by
  decide

/-- ResponsesComeInOrder: a step of each kind of operation. -/
theorem witness_ResponsesComeInOrder :
    (nextState (step (sub .strict "nop"))).isSome = true ∧
      (nextState (step (host .strict [.reset]))).isSome = true ∧
      (nextState (step (host .strict [.writeReg 3 1]))).isSome = true ∧
      (nextState (step (host .strict [.readReg 3]))).isSome = true := by decide

/-- CtrlRegister, StatusRegister, CounterRegistersAreReadOnly and ResetSetsTheFourElements: each
operation next, and an index just above the registers. -/
theorem witness_register_operations :
    (host .legacy [.readReg 0]).pending = .readReg 0 :: [] ∧
      (host .legacy [.writeReg 0 2, .readReg 0]).pending = .writeReg 0 2 :: .readReg 0 :: [] ∧
      (host .legacy [.readReg 1]).pending = .readReg 1 :: [] ∧
      (host .legacy [.writeReg 1 0]).pending = .writeReg 1 0 :: [] ∧
      (host .legacy [.readReg 2]).pending = .readReg 2 :: [] ∧
      (host .legacy [.readReg 3]).pending = .readReg 3 :: [] ∧
      (host .legacy [.writeReg 2 5]).pending = .writeReg 2 5 :: [] ∧
      (host .legacy [.writeReg 4 5]).pending = .writeReg 4 5 :: [] ∧ 3 < 4 ∧
      (host .legacy [.readReg 4]).pending = .readReg 4 :: [] ∧
      (host .legacy [.reset]).pending = .reset :: [] := by decide

/-- CtrlRegister, the policy clause: the first integer beyond each end. -/
theorem witness_CtrlRegister :
    (ImmediateToken (asc "2048") 2048 ∧ ¬ Fits12 2048) ∧
      ImmediateToken (asc "-2049") (-2049) ∧ ¬ Fits12 (-2049) :=
  ⟨⟨immediateToken_of_check (by decide), by unfold Fits12; decide⟩,
    immediateToken_of_check (by decide), by unfold Fits12; decide⟩

/-- ResetBeginsANewRun and ModeWriteActsOnTheNextSubmit. -/
theorem witness_two_operations :
    (host .legacy [.reset, .submit (asc "nop")]).pending = .reset :: .submit (asc "nop") :: [] ∧
      (host .strict [.writeReg 0 1, .submit (asc "nop")]).pending =
        .writeReg 0 1 :: .submit (asc "nop") :: [] ∧
      InInterface (asc "nop") :=
  ⟨rfl, rfl, (lineInInterface_iff _).1 (by decide)⟩

/-- RefusalIsKeptForTheRun: one step, then a refusal. -/
theorem witness_RefusalIsKeptForTheRun :
    ∃ t, run 1 (host .strict [.reset, .readReg 9, .reset]) = .next t ∧
      step t = .refused (.registerIndexOutsideInterface 9) := ⟨_, rfl, rfl⟩

theorem witness_IdleKeepsTheState : (host .legacy []).pending = [] := rfl

/-! ### Invariants and runs: every hypothesis met -/

/-- CountersCountSinceReset and RecordStaysExplained: a state whose record holds an error line, with the
counters it gives, that takes another line. -/
theorem witness_invariants :
    ∃ s t, run 1 (host .strict [.submit (asc "nop"), .submit (asc "#")]) = .next s ∧
      CountersAgree s ∧ s.errCount = 1 ∧ RecordExplains s ∧ step s = .next t ∧ t.lineNo = 2 := by
  refine ⟨_, _, rfl, ⟨by decide, by decide⟩, by decide,
    ⟨by decide, (lineInInterface_iff _).1 (by decide), by decide, trivial⟩, rfl, by decide⟩

/-- ErrorStatusIsSticky: an error held while a line, a write and a read are taken, and a Reset after
them. -/
theorem witness_ErrorStatusIsSticky :
    ∃ s t, s.statusErr = true ∧ (∀ op ∈ s.pending.take 3, op ≠ .reset) ∧ run 3 s = .next t ∧
      t.pending = [.reset] :=
  ⟨{ host .strict [.submit (asc "#"), .writeReg 1 0, .readReg 1, .reset] with errCount := 1 }, _,
    by decide, by decide, rfl, by decide⟩

/-- RunsCompleteInOrder: operations of each kind, all inside the interface. -/
theorem witness_RunsCompleteInOrder :
    ∀ op ∈ (host .strict [.submit (asc "nop"), .writeReg 3 0, .readReg 3, .reset]).pending,
      OpInInterface op := by
  intro op hop
  simp [host] at hop
  rcases hop with rfl | rfl | rfl | rfl
  · exact (lineInInterface_iff _).1 (by decide)
  · exact (by decide : 3 ≤ 3)
  · exact (by decide : 3 ≤ 3)
  · trivial

end Sys2Proof.Tests
end

section
/-!
PROOFS. The step on each host operation, the sinks after one more response, and the statements about
the response port, the interface, the text form and the registers CTRL and STATUS.
-/
namespace Sys2Proof.Machine

/-! ### What a step does with each operation -/

/-- Every meaning ends in `respond` for its own mnemonic, so inside a transaction it answers the state
that R27 leaves (R126, R127). -/
theorem exec_answered {s : State} {line : Line} {rest : List HostOp} (i : Instr)
    (h : s.pending = .submit line :: rest) :
    ∃ r, exec i s = .next (answered s line rest (outcomeResponse s line i.mnemonic r)) := by
  cases i with
  | lw _ _ _ => exact ⟨_, respond_answered .lw _ h⟩
  | sw _ _ _ => exact ⟨_, respond_answered .sw _ h⟩
  | add _ _ _ => exact ⟨_, respond_answered .add _ h⟩
  | xor _ _ _ => exact ⟨_, respond_answered .xor _ h⟩
  | addi _ _ _ => exact ⟨_, respond_answered .addi _ h⟩
  | sll _ _ _ => exact ⟨_, respond_answered .sll _ h⟩
  | bne _ _ _ => exact ⟨_, respond_answered .bne _ h⟩

/-- A transaction always answers one response (R27, R120). -/
theorem transact_answered {s : State} {line : Line} {rest : List HostOp}
    (h : s.pending = .submit line :: rest) :
    ∃ r, transact line s = .next (answered s line rest r) := by
  cases hd : decodeLine line with
  | skip => exact ⟨.skip, by simp [transact, hd, emitSkip_answered h]⟩
  | rejected m e => exact ⟨rejection s line m e, by simp [transact, hd, raise_answered m e h]⟩
  | instr i =>
    obtain ⟨r, hr⟩ := exec_answered i h
    exact ⟨outcomeResponse s line i.mnemonic r, by simp [transact, hd, hr]⟩

/-- A step that takes `Submit` of a line inside the interface answers a response. -/
theorem step_submit_answered {s : State} {line : Line} {rest : List HostOp}
    (h : s.pending = .submit line :: rest) (hi : InInterface line) :
    ∃ r, step s = .next (answered s line rest r) := by
  rw [step_submit h hi]
  exact transact_answered h

/-- A step that takes `Submit` of a line outside the interface refuses it (R30, R207). -/
theorem step_submit_outside {s : State} {line : Line} {rest : List HostOp}
    (h : s.pending = .submit line :: rest) (hi : ¬ InInterface line) :
    step s = .refused .lineOutsideInterface := by
  simp [step, h, hostSubmit, lineInInterface_iff, hi]

/-- A step that takes `ReadReg` of one of the four registers records its word (R24 to R27). -/
theorem step_readReg_inside {s : State} {i : Nat} {rest : List HostOp}
    (h : s.pending = .readReg i :: rest) (hi : i ≤ 3) :
    step s = .next { s with
      pending := rest
      log := { op := .readReg i, ret := s.regs.returns (.readReg i) } :: s.log } := by
  rw [step_readReg h]
  match i, hi with
  | 0, _ =>
    cases hm : s.immMode <;>
      simp [hostReadReg, State.complete_eq h, Regs.returns, State.regs, State.ctrlWord, immModeBit, hm]
  | 1, _ =>
    by_cases he : s.errCount = 0#32 <;>
      simp [hostReadReg, State.complete_eq h, Regs.returns, State.regs, State.statusWord,
        State.statusErr, he]
  | 2, _ => simp [hostReadReg, State.complete_eq h, Regs.returns, State.regs]
  | 3, _ => simp [hostReadReg, State.complete_eq h, Regs.returns, State.regs]

/-- A step that takes `ReadReg` of any other register refuses it (R29, R207). -/
theorem step_readReg_outside {s : State} {i : Nat} {rest : List HostOp}
    (h : s.pending = .readReg i :: rest) (hi : 3 < i) :
    step s = .refused (.registerIndexOutsideInterface i) := by
  obtain ⟨n, rfl⟩ := Nat.exists_eq_add_of_le' (Nat.succ_le_of_lt hi)
  rw [step_readReg h]; rfl

/-- A step that takes `WriteReg` of one of the four registers changes IMM_MODE alone, and that only
through register 0 (R24, R29). -/
theorem step_writeReg_inside {s : State} {i : Nat} {v : Word} {rest : List HostOp}
    (h : s.pending = .writeReg i v :: rest) (hi : i ≤ 3) :
    step s = .next { s with
      immMode := (s.regs.after (.writeReg i v)).immMode
      pending := rest
      log := { op := .writeReg i v, ret := .nothing } :: s.log } := by
  rw [step_writeReg h]
  match i, hi with
  | 0, _ =>
    simp [hostWriteReg, State.complete, State.setImmMode, h, Regs.after, immModeOfBit]
  | 1, _ => simp [hostWriteReg, State.complete_eq h, Regs.after, State.regs]
  | 2, _ => simp [hostWriteReg, State.complete_eq h, Regs.after, State.regs]
  | 3, _ => simp [hostWriteReg, State.complete_eq h, Regs.after, State.regs]

/-- A step that takes `WriteReg` of any other register refuses it (R29, R207). -/
theorem step_writeReg_outside {s : State} {i : Nat} {v : Word} {rest : List HostOp}
    (h : s.pending = .writeReg i v :: rest) (hi : 3 < i) :
    step s = .refused (.registerIndexOutsideInterface i) := by
  obtain ⟨n, rfl⟩ := Nat.exists_eq_add_of_le' (Nat.succ_le_of_lt hi)
  rw [step_writeReg h]; rfl

/-- An operation that a step takes to a next state was inside the interface (R29, R30). -/
theorem opInInterface_of_step {s t : State} {op : HostOp} {rest : List HostOp}
    (h : s.pending = op :: rest) (hs : step s = .next t) : OpInInterface op := by
  cases op with
  | reset => trivial
  | writeReg i v =>
    by_contra hi
    simp [step_writeReg_outside h (Nat.lt_of_not_le hi)] at hs
  | readReg i =>
    by_contra hi
    simp [step_readReg_outside h (Nat.lt_of_not_le hi)] at hs
  | submit line =>
    by_contra hi
    simp [step_submit_outside h hi] at hs

/-- A `Submit` that a step takes is recorded with one response. -/
theorem log_of_step_submit {s t : State} {line : Line} {rest : List HostOp}
    (h : s.pending = .submit line :: rest) (hs : step s = .next t) :
    ∃ r, t.log = { op := .submit line, ret := .response r } :: s.log := by
  obtain ⟨r, hr⟩ := step_submit_answered h (opInInterface_of_step h hs)
  rw [hr] at hs
  cases hs
  exact ⟨r, rfl⟩

/-- Any other operation that a step takes is recorded with a return that is no response. -/
theorem log_of_step_not_submit {s t : State} {op : HostOp} {rest : List HostOp}
    (h : s.pending = op :: rest) (hs : step s = .next t) (hop : ∀ line, op ≠ .submit line) :
    ∃ ret, t.log = { op := op, ret := ret } :: s.log ∧ responseOf ret = none := by
  have hi := opInInterface_of_step h hs
  cases op with
  | reset =>
    rw [step_reset h] at hs
    cases hs
    exact ⟨_, rfl, rfl⟩
  | writeReg i v =>
    rw [step_writeReg_inside h hi] at hs
    cases hs
    exact ⟨_, rfl, rfl⟩
  | readReg i =>
    rw [step_readReg_inside h hi] at hs
    cases hs
    exact ⟨_, rfl, rfl⟩
  | submit line => exact absurd rfl (hop line)

/-- A run whose first step answers a next state goes on from it. -/
theorem run_succ_of_step {s t : State} {k : Nat} (h : step s = .next t) :
    run (k + 1) s = run k t := by
  simp [run_succ, h]

/-! ### The responses and the sinks -/

/-- A recorded operation that returned no response delivers none. -/
theorem State.responses_of_log_silent {s t : State} {op : HostOp} {ret : Returned}
    (h : t.log = { op := op, ret := ret } :: s.log) (hr : responseOf ret = none) :
    t.responses = s.responses := by
  simp [State.responses, h, hr]

/-- One more response gives the word sink its word, if it has one. -/
theorem State.wordSink_of_responses {s t : State} {r : Response}
    (h : t.responses = s.responses ++ [r]) : t.wordSink = s.wordSink ++ (wordOf r).toList := by
  cases hw : wordOf r <;> simp [State.wordSink, h, hw]

/-- One more response gives the diagnostic sink its diagnostic, if it has one. -/
theorem State.diagnosticSink_of_responses {s t : State} {r : Response}
    (h : t.responses = s.responses ++ [r]) :
    t.diagnosticSink = s.diagnosticSink ++ (respDiagnostic r).toList := by
  cases hd : respDiagnostic r <;> simp [State.diagnosticSink, h, hd]

/-- The codes of R201 for the error kinds. -/
theorem kindCode_bounds (k : ErrorKind) : 2 ≤ kindCode k ∧ kindCode k ≤ 5 := by
  cases k <;> decide

/-- Settles O38: a Submit is recorded with one response, whose constructor says which sink it goes to;
any other operation is recorded with none. -/
theorem responsesComeInOrder : Obligations.ResponsesComeInOrder := by
  intro s t op rest h hs
  refine ⟨?_, fun hop => ?_⟩
  · rintro line rfl
    obtain ⟨r, hlog⟩ := log_of_step_submit h hs
    have hresp := State.responses_of_log hlog
    have hword := State.wordSink_of_responses hresp
    have hdiag := State.diagnosticSink_of_responses hresp
    refine ⟨r, hresp, ?_⟩
    cases r with
    | word w => exact .inl ⟨w, rfl, rfl, rfl, rfl, hword, by simpa [respDiagnostic] using hdiag⟩
    | skip =>
      exact .inr (.inl ⟨rfl, rfl, rfl, rfl, by simpa [wordOf] using hword,
        by simpa [respDiagnostic] using hdiag⟩)
    | error d =>
      obtain ⟨hlo, hhi⟩ := kindCode_bounds d.kind
      exact .inr (.inr ⟨d, rfl, hlo, hhi, rfl, rfl, by simpa [wordOf] using hword, hdiag⟩)
  · obtain ⟨ret, hlog, hret⟩ := log_of_step_not_submit h hs hop
    exact State.responses_of_log_silent hlog hret

/-- Settles O45: the step's two cases on the line test of R30. -/
theorem linesOutsideTheInterfaceAreRefused : Obligations.LinesOutsideTheInterfaceAreRefused :=
  fun _ _ _ h => ⟨step_submit_outside h, step_submit_answered h⟩

/-! ### The text form of a word -/

@[simp] theorem render_length (w : Word) : (render w).length = 32 := by simp [render]

/-- Byte `j` of the text form is the character of bit `31 - j`. -/
theorem render_getElem? (w : Word) {j : Nat} (hj : j < 32) :
    (render w)[j]? = some (if w.getLsbD (31 - j) then 0x31#8 else 0x30#8) := by
  simp [render, hj]

/-- The two characters differ, so each byte gives its bit back. -/
theorem render_injective {w w' : Word} (h : render w' = render w) : w' = w := by
  apply BitVec.eq_of_getLsbD_eq
  intro i hi
  have hbyte : (render w')[31 - i]? = (render w)[31 - i]? := by rw [h]
  rw [render_getElem? w' (by omega), render_getElem? w (by omega),
    show 31 - (31 - i) = i by omega] at hbyte
  cases hb' : w'.getLsbD i <;> cases hb : w.getLsbD i <;> simp [hb', hb] at hbyte ⊢

/-- Settles O48, from the length, the bytes and the injectivity of `render`. -/
theorem renderIsMostSignificantFirst : Obligations.RenderIsMostSignificantFirst :=
  fun w => ⟨render_length w, fun _ => render_getElem? w, fun _ => render_injective⟩

/-! ### CTRL and STATUS -/

/-- `CTRL` reads back the bit that a write of `v` took from it (R24). -/
theorem ctrl_readback (v : Word) :
    (if (if v.getLsbD 0 then ImmMode.legacy else .strict) = .legacy then (1 : Word) else 0) =
      v &&& 1 := by
  rw [show v &&& 1 = _ from BitVec.and_one_eq_setWidth_ofBool_getLsbD]
  cases v.getLsbD 0 <;> rfl

/-- The parser reads an immediate token as its integer (R87). -/
theorem immParse_of_immediateToken {t : Token} {v : Int} (i : OperandIndex)
    (h : ImmediateToken t v) : immParse i t = .ok v := by
  obtain ⟨hnum, hval⟩ := (immediateToken_iff t v).1 h
  simp [immParse, hnum, hval]

/-- STRICT rejects an integer outside IMM12 (R92). -/
theorem imm12Operand_strict_outside {t : Token} {v : Int} (i : OperandIndex)
    (h : ImmediateToken t v) (hv : ¬ Fits12 v) :
    imm12Operand .strict i t = .error (.immediateRange i t) := by
  unfold Fits12 at hv
  simp [imm12Operand, immParse_of_immediateToken i h, Except.bind, validate12, strictCheck12, hv,
    Except.map]

/-- LEGACY masks every integer (R93). -/
theorem imm12Operand_legacy {t : Token} {v : Int} (i : OperandIndex) (h : ImmediateToken t v) :
    imm12Operand .legacy i t = .ok (trunc 12 v) := by
  simp [imm12Operand, immParse_of_immediateToken i h, Except.bind, validate12]

/-- Settles O39, from the step of a read and of a write and from IMM12 under each policy. -/
theorem ctrlRegister : Obligations.CtrlRegister := by
  refine ⟨fun s rest h => step_readReg_inside h (by decide),
    fun s v rest h => step_writeReg_inside h (by decide), fun s v rest h => ?_,
    fun i t v h hv => ⟨imm12Operand_strict_outside i h hv, imm12Operand_legacy i h⟩, rfl⟩
  rw [run_succ_of_step (step_writeReg_inside h (by decide)),
    run_succ_of_step (step_readReg_inside rfl (by decide)), ← ctrl_readback v]
  exact ⟨_, rfl, rfl⟩

/-- `STATUS.ERR` follows ERR_COUNT (R25). -/
theorem State.statusErr_iff (s : State) : s.statusErr = true ↔ s.errCount ≠ 0 := by
  simp [State.statusErr]

/-- The run is CLEAN while no error is counted (R208). -/
theorem State.runStatus_clean_iff (s : State) : s.runStatus = .clean ↔ s.errCount = 0 := by
  by_cases h : s.errCount = 0 <;> simp [State.runStatus, State.statusErr, h]

/-- Settles O40, from the step of a read and of a write and from STATUS.ERR as a view of ERR_COUNT. -/
theorem statusRegister : Obligations.StatusRegister :=
  ⟨fun _ _ h => step_readReg_inside h (by decide),
    fun _ _ _ h => step_writeReg_inside h (by decide),
    fun s => ⟨s.statusErr_iff, s.runStatus_clean_iff⟩, rfl⟩

end Sys2Proof.Machine
end

section
/-!
PROOFS. The packer: the bits and the value of `field`, the four formats as concatenations of their
fields, and the statements about both (R73 to R78).
-/
namespace Sys2Proof.Machine

/-! ### The primitive `field` -/

/-- Bit `j` of a placed field is bit `j - lsb` of the integer, inside the field, and 0 outside it. -/
theorem field_getLsbD (v : Int) {width lsb j : Nat} (hj : j < 32) :
    (field v width lsb).getLsbD j = true ↔
      lsb ≤ j ∧ j < lsb + width ∧ (v / 2 ^ (j - lsb)) % 2 = 1 := by
  rw [field, BitVec.getLsbD_shiftLeft, BitVec.getLsbD_setWidth]
  by_cases hin : lsb ≤ j ∧ j < lsb + width
  · rw [trunc_getLsbD v width (j - lsb) (by omega)]
    have hbit : j - lsb < 32 := by omega
    simp [hin, hj, hbit]
  · have hout : j < lsb ∨ width ≤ j - lsb := by omega
    rcases hout with hlow | hhigh
    · simp [hlow]
    · simp [BitVec.getLsbD_of_ge (trunc width v) _ hhigh]; omega

/-- A placed field is worth the field's pattern at `2 ^ lsb`: nothing is shifted out of the word. -/
theorem field_toNat_eq_trunc (v : Int) {width lsb : Nat} (h : width + lsb ≤ 32) :
    (field v width lsb).toNat = (trunc width v).toNat * 2 ^ lsb := by
  have hlt : (trunc width v).toNat < 2 ^ width := (trunc width v).isLt
  have hword : (trunc width v).toNat * 2 ^ lsb < 2 ^ 32 :=
    calc (trunc width v).toNat * 2 ^ lsb
        < 2 ^ width * 2 ^ lsb := Nat.mul_lt_mul_of_pos_right hlt (by positivity)
      _ = 2 ^ (width + lsb) := (pow_add ..).symm
      _ ≤ 2 ^ 32 := Nat.pow_le_pow_right (by decide) h
  have hpat : (trunc width v).toNat < 2 ^ 32 :=
    lt_of_lt_of_le hlt (Nat.pow_le_pow_right (by decide) (by omega))
  rw [field, BitVec.toNat_shiftLeft, BitVec.toNat_setWidth, Nat.mod_eq_of_lt hpat,
    Nat.shiftLeft_eq, Nat.mod_eq_of_lt hword]

/-- The pattern's value is the integer modulo the field's size (R8). -/
theorem trunc_toNat (v : Int) (width : Nat) : ((trunc width v).toNat : Int) = v % 2 ^ width := by
  rw [BitVec.toNat_ofInt]
  push_cast
  exact Int.toNat_of_nonneg (Int.emod_nonneg _ (by positivity))

/-- Masking a shifted signed pattern places the pattern's slice. -/
theorem field_toInt_ediv {n : Nat} (b : BitVec n) {lo width : Nat} (lsb : Nat)
    (h : lo + width ≤ n) :
    field (b.toInt / 2 ^ lo) width lsb = field (b.extractLsb' lo width).toNat width lsb := by
  have hb : trunc n b.toInt = b := BitVec.ofInt_toInt
  rw [field_eq_ofNat, field, ← extractLsb'_trunc n b.toInt lo width h, hb]

/-- Settles O1, from the bits and the value of `field`; a format's signed immediate is placed slice by
slice. -/
theorem fieldMasksThenShifts : Obligations.FieldMasksThenShifts := by
  refine ⟨fun v width lsb _ j hj => field_getLsbD v hj, fun v width lsb h => ?_,
    fun width lsb r h => ?_, fun b c f7 rs2 rs1 rd f3 op => ⟨rfl, ?_, ?_, ?_⟩⟩
  · rw [field_toNat_eq_trunc v h]
    push_cast
    rw [trunc_toNat]
  · simp [field_toNat_eq_trunc _ h]
  · rw [encodeI, field_eq_ofNat b, field_eq_ofInt]
  · have hlow := field_toInt_ediv b (lo := 0) (width := 5) 7 (by decide)
    rw [pow_zero, Int.ediv_one] at hlow
    rw [encodeS, field_toInt_ediv b 25 (by decide), hlow]
  · have hone := field_toInt_ediv c (lo := 1) (width := 4) 8 (by decide)
    rw [pow_one] at hone
    rw [encodeB, field_toInt_ediv c 31 (by decide), field_toInt_ediv c 25 (by decide), hone,
      field_toInt_ediv c 7 (by decide)]

/-! ### The four formats -/

/-- A concatenation is placed part by part: the upper part past the lower one. -/
theorem field_append {m n : Nat} (x : BitVec m) (y : BitVec n) (lsb : Nat) :
    field (x ++ y).toNat (m + n) lsb = field x.toNat m (n + lsb) ||| field y.toNat n lsb := by
  rw [field_eq_ofNat, field_eq_ofNat, field_eq_ofNat,
    BitVec.setWidth_append_eq_shiftLeft_setWidth_or, BitVec.shiftLeft_or_distrib,
    BitVec.shiftLeft_add]

/-- A whole word is its own field. -/
theorem field_word (w : Word) : field w.toNat 32 0 = w := by
  rw [field_eq_ofNat, BitVec.setWidth_eq, BitVec.shiftLeft_zero]

/-- Settles O2: the concatenation is placed field by field. -/
theorem rFormatLayout : Obligations.RFormatLayout := by
  intro f7 rs2 rs1 f3 rd op
  rw [encodeR, ← field_word (f7 ++ rs2 ++ rs1 ++ f3 ++ rd ++ op), field_append, field_append,
    field_append, field_append, field_append]

/-- Settles O3: the concatenation is placed field by field. -/
theorem iFormatLayout : Obligations.IFormatLayout := by
  intro b rs1 f3 rd op
  rw [encodeI, ← field_word (b ++ rs1 ++ f3 ++ rd ++ op), field_append, field_append, field_append,
    field_append]

/-- Settles O4: the concatenation is placed field by field. -/
theorem sFormatLayout : Obligations.SFormatLayout := by
  intro b rs2 rs1 f3 op
  rw [encodeS, ← field_word (b.extractLsb 11 5 ++ rs2 ++ rs1 ++ f3 ++ b.extractLsb 4 0 ++ op),
    field_append, field_append, field_append, field_append, field_append]
  rfl

/-- Patterns that agree above bit 0 agree on every slice above bit 0. -/
theorem extractLsb'_eq_of_extractLsb_eq {b c : BitVec 13}
    (h : b.extractLsb 12 1 = c.extractLsb 12 1) {lo width : Nat} (hlo : 1 ≤ lo)
    (hw : lo + width ≤ 13) : b.extractLsb' lo width = c.extractLsb' lo width := by
  apply BitVec.eq_of_getLsbD_eq
  intro j hj
  have hbit : (b.extractLsb 12 1).getLsbD (lo - 1 + j) = (c.extractLsb 12 1).getLsbD (lo - 1 + j) := by
    rw [h]
  rw [BitVec.getLsbD_extractLsb, BitVec.getLsbD_extractLsb,
    show 1 + (lo - 1 + j) = lo + j by omega, decide_eq_true (by omega)] at hbit
  simpa [hj] using hbit

/-- No field of the B format reads bit 0 of the pattern (R76). -/
theorem encodeB_congr {b c : BitVec 13} (h : b.extractLsb 12 1 = c.extractLsb 12 1)
    (rs2 rs1 : BitVec 5) (f3 : BitVec 3) (op : BitVec 7) :
    encodeB b rs2 rs1 f3 op = encodeB c rs2 rs1 f3 op := by
  have slice {lo width : Nat} := extractLsb'_eq_of_extractLsb_eq h (lo := lo) (width := width)
  rw [encodeB, encodeB, slice (lo := 12) (by decide) (by decide),
    slice (lo := 5) (by decide) (by decide), slice (lo := 1) (by decide) (by decide),
    slice (lo := 11) (by decide) (by decide)]

/-- Settles O5: the concatenation is placed field by field, and no field reads bit 0. -/
theorem bFormatLayout : Obligations.BFormatLayout := by
  refine ⟨fun b rs2 rs1 f3 op => ?_, fun _ _ rs2 rs1 f3 op h => encodeB_congr h rs2 rs1 f3 op⟩
  rw [encodeB, ← field_word (b.extractLsb 12 12 ++ b.extractLsb 10 5 ++ rs2 ++ rs1 ++ f3
    ++ b.extractLsb 4 1 ++ b.extractLsb 11 11 ++ op), field_append, field_append, field_append,
    field_append, field_append, field_append, field_append]
  rfl

end Sys2Proof.Machine
end

section
/-!
PROOFS. The operand decoders: the register decoder, the immediate parser and the validator under either
policy (R85, R87, R90, R92, R93).
-/
namespace Sys2Proof.Machine

/-! ### Registers -/

/-- The register decoder on a register token: the index, or RANGE (R85). -/
theorem regDecode_of_registerToken {t : Token} {n : Nat} (i : OperandIndex)
    (h : RegisterToken t n) :
    regDecode i t = if n ≤ 31 then .ok (BitVec.ofNat 5 n) else .error (.registerRange i t) := by
  obtain ⟨ds, rfl, hnum, rfl⟩ := (registerToken_iff t n).1 h
  simp [regDecode, hnum]

/-- The register decoder on any other token: SYNTAX (R85). -/
theorem regDecode_of_not_registerToken {t : Token} (i : OperandIndex)
    (h : ∀ n, ¬ RegisterToken t n) : regDecode i t = .error (.registerSyntax i t) := by
  cases t with
  | nil => rfl
  | cons c ds =>
    have hform : ¬ (c = 0x78#8 ∧ isNumeral ds = true) := by
      rintro ⟨rfl, hnum⟩
      exact h _ ((registerToken_iff _ _).2 ⟨ds, rfl, hnum, rfl⟩)
    rw [regDecode, if_neg hform]

/-- The register decoder answers a verdict of R85. -/
theorem regDecode_regVerdict (i : OperandIndex) (t : Token) : RegVerdict i t (regDecode i t) := by
  by_cases h : ∃ n, RegisterToken t n
  · obtain ⟨n, hn⟩ := h
    rw [regDecode_of_registerToken i hn]
    split
    · exact .index n hn ‹_›
    · exact .range n hn (by omega)
  · have hform : ∀ n, ¬ RegisterToken t n := fun n hn => h ⟨n, hn⟩
    rw [regDecode_of_not_registerToken i hform]
    exact .form hform

/-- Settles O14: the decoder answers a verdict, and each verdict is what it answers. -/
theorem registerDecoderVerdict : Obligations.RegisterDecoderVerdict := by
  intro i t r
  constructor
  · rintro rfl
    exact regDecode_regVerdict i t
  · intro hr
    cases hr with
    | index n hn hle => rw [regDecode_of_registerToken i hn, if_pos hle]
    | range n hn hlt => rw [regDecode_of_registerToken i hn, if_neg (by omega)]
    | form h => exact regDecode_of_not_registerToken i h

/-! ### Immediates -/

/-- The parser rejects every token that is no immediate (R87). -/
theorem immParse_of_not_immediateToken {t : Token} (i : OperandIndex)
    (h : ∀ v, ¬ ImmediateToken t v) : immParse i t = .error (.immediateSyntax i t) := by
  have hnum : ¬ isNumeral (splitSign t).2 = true := fun hnum =>
    h _ ((immediateToken_iff t _).2 ⟨hnum, rfl⟩)
  rw [immParse, if_neg hnum]

/-- Settles O15, by whether the token is an immediate. -/
theorem immediateParserVerdict : Obligations.ImmediateParserVerdict := by
  have hok {i : OperandIndex} {t : Token} {v : Int} (hp : immParse i t = .ok v) :
      ImmediateToken t v := by
    by_cases h : ∃ u, ImmediateToken t u
    · obtain ⟨u, hu⟩ := h
      rw [immParse_of_immediateToken i hu] at hp
      cases hp
      exact hu
    · rw [immParse_of_not_immediateToken i fun u hu => h ⟨u, hu⟩] at hp
      cases hp
  refine ⟨fun i t v => ⟨hok, immParse_of_immediateToken i⟩, fun i t e => ⟨fun hp => ?_, ?_⟩⟩
  · have hform : ∀ v, ¬ ImmediateToken t v := fun v hv => by
      simp [immParse_of_immediateToken i hv] at hp
    rw [immParse_of_not_immediateToken i hform] at hp
    cases hp
    exact ⟨hform, rfl⟩
  · rintro ⟨hform, rfl⟩
    exact immParse_of_not_immediateToken i hform

/-- An IMM12 operand whose token is an integer is what the validator makes of it (R90). -/
theorem imm12Operand_of_immediateToken {t : Token} {v : Int} (mode : ImmMode) (i : OperandIndex)
    (h : ImmediateToken t v) : imm12Operand mode i t = validate12 mode i t v := by
  rw [imm12Operand, immParse_of_immediateToken i h]; rfl

/-- An IMMB operand whose token is an integer is what the validator makes of it (R90). -/
theorem immBOperand_of_immediateToken {t : Token} {v : Int} (mode : ImmMode) (i : OperandIndex)
    (h : ImmediateToken t v) : immBOperand mode i t = validateB mode i t v := by
  rw [immBOperand, immParse_of_immediateToken i h]; rfl

/-- An IMM12 operand whose token is no integer fails under either policy (R87). -/
theorem imm12Operand_of_not_immediateToken {t : Token} (mode : ImmMode) (i : OperandIndex)
    (h : ∀ v, ¬ ImmediateToken t v) :
    imm12Operand mode i t = .error (.immediateSyntax i t) := by
  rw [imm12Operand, immParse_of_not_immediateToken i h]; rfl

/-- An IMMB operand whose token is no integer fails under either policy (R87). -/
theorem immBOperand_of_not_immediateToken {t : Token} (mode : ImmMode) (i : OperandIndex)
    (h : ∀ v, ¬ ImmediateToken t v) :
    immBOperand mode i t = .error (.immediateSyntax i t) := by
  rw [immBOperand, immParse_of_not_immediateToken i h]; rfl

/-- Everything STRICT makes of an integer at an IMM12 operand (R92). -/
theorem validate12_strict (i : OperandIndex) (t : Token) (v : Int) :
    validate12 .strict i t v =
      if -2048 ≤ v ∧ v ≤ 2047 then .ok (trunc 12 v) else .error (.immediateRange i t) := by
  rw [validate12, strictCheck12]
  split <;> rfl

/-- Everything STRICT makes of an integer at an IMMB operand: the range is checked before evenness
(R92). -/
theorem validateB_strict (i : OperandIndex) (t : Token) (v : Int) :
    validateB .strict i t v =
      if ¬ (-4096 ≤ v ∧ v ≤ 4095) then .error (.immediateRange i t)
      else if v % 2 ≠ 0 then .error (.immediateOdd i t)
      else .ok (trunc 13 v) := by
  rw [validateB, strictCheckB]
  by_cases hrange : -4096 ≤ v ∧ v ≤ 4095
  · by_cases heven : v % 2 = 0
    · simp [hrange, heven, Except.map]
    · simp [hrange, heven, Except.map]
  · simp only [if_neg hrange, if_pos hrange, Except.map]

/-- An IMM12 operand under STRICT (R92). -/
theorem imm12Operand_strict {t : Token} {v : Int} (i : OperandIndex) (h : ImmediateToken t v) :
    imm12Operand .strict i t =
      if -2048 ≤ v ∧ v ≤ 2047 then .ok (trunc 12 v) else .error (.immediateRange i t) := by
  rw [imm12Operand_of_immediateToken .strict i h, validate12_strict]

/-- Settles O16, from what STRICT makes of an integer; at a literal the range test computes. -/
theorem strictModeRejects : Obligations.StrictModeRejects := by
  refine ⟨fun i t v h => imm12Operand_strict i h, fun i t v h => ?_, fun i t h => ?_,
    fun i t h => imm12Operand_strict i h⟩
  · rw [immBOperand_of_immediateToken .strict i h, validateB_strict]
  · rcases h with h | h
    · exact ⟨_, imm12Operand_strict i h⟩
    · exact ⟨_, imm12Operand_strict i h⟩

/-- LEGACY masks every integer at an IMMB operand (R93). -/
theorem immBOperand_legacy {t : Token} {v : Int} (i : OperandIndex) (h : ImmediateToken t v) :
    immBOperand .legacy i t = .ok (trunc 13 v) :=
  immBOperand_of_immediateToken .legacy i h

/-- An odd displacement and the even one below it have one pattern above bit 0. -/
theorem trunc_odd_extractLsb (v : Int) (h : v % 2 ≠ 0) :
    (trunc 13 v).extractLsb 12 1 = (trunc 13 (v - 1)).extractLsb 12 1 := by
  have hhalf : v / 2 ^ 1 = (v - 1) / 2 ^ 1 := by omega
  calc (trunc 13 v).extractLsb' 1 12
      = trunc 12 (v / 2 ^ 1) := extractLsb'_trunc 13 v 1 12 (by decide)
    _ = trunc 12 ((v - 1) / 2 ^ 1) := by rw [hhalf]
    _ = (trunc 13 (v - 1)).extractLsb' 1 12 := (extractLsb'_trunc 13 (v - 1) 1 12 (by decide)).symm

/-- Settles O17, from what LEGACY makes of an integer; an odd displacement differs from the even one
below it in bit 0 alone, which no field reads. -/
theorem legacyModeMasks : Obligations.LegacyModeMasks :=
  ⟨fun i _ _ h => ⟨imm12Operand_legacy i h, immBOperand_legacy i h⟩,
    fun i _ h => ⟨imm12Operand_of_not_immediateToken .legacy i h,
      immBOperand_of_not_immediateToken .legacy i h⟩,
    fun i _ h => ⟨imm12Operand_legacy i h, by decide⟩,
    fun i _ h => ⟨immBOperand_legacy i h, by decide⟩,
    fun v rs2 rs1 f3 op hodd => encodeB_congr (trunc_odd_extractLsb v hodd) rs2 rs1 f3 op⟩

end Sys2Proof.Machine
end

section
/-!
PROOFS. Lines: the one decomposition of R80, and comment and blank lines (R81, R82, R121, R122).
-/
namespace Sys2Proof
open Machine

/-! ### The tokenizer -/

/-- Any tokens and separator runs that meet R80's conditions are what the tokenizer finds in the bytes
they spell. -/
theorem tokenize_flatMap (parts : List (Token × Separator))
    (tokens : ∀ p ∈ parts, p.1 ≠ [] ∧ ∀ c ∈ p.1, ¬ Delimiter c)
    (runs : ∀ p ∈ parts, ∀ c ∈ p.2, Delimiter c) (inner : ∀ p ∈ parts.dropLast, p.2 ≠ []) :
    tokenize (parts.flatMap fun p => p.1 ++ p.2) = { lead := [], parts := parts } := by
  induction parts with
  | nil => rfl
  | cons p ps ih =>
    obtain ⟨t, sep⟩ := p
    have htoken := tokens (t, sep) List.mem_cons_self
    have hrun := runs (t, sep) List.mem_cons_self
    have hps := ih (fun q hq => tokens q (List.mem_cons_of_mem _ hq))
      (fun q hq => runs q (List.mem_cons_of_mem _ hq))
      (fun q hq => inner q (by
        cases ps with
        | nil => cases hq
        | cons _ _ => exact List.mem_cons_of_mem _ hq))
    have hrest : tokenize (sep ++ ps.flatMap fun p => p.1 ++ p.2) = { lead := sep, parts := ps } := by
      rw [tokenize_separator sep _ hrun, hps, List.append_nil]
    have hend : sep ≠ [] ∨ ps = [] := by
      cases ps with
      | nil => exact .inr rfl
      | cons _ _ => exact .inl (inner (t, sep) List.mem_cons_self)
    rw [List.flatMap_cons, List.append_assoc,
      tokenize_token t _ htoken.1 htoken.2 (by rw [hrest]; exact hend), hrest]

/-- A decomposition of a line is the tokenizer's. -/
theorem Splits.tokenize_eq {line : Line} {lead : Separator} {parts : List (Token × Separator)}
    (h : Splits line lead parts) : tokenize line = { lead := lead, parts := parts } := by
  obtain ⟨rfl, leadRun, tokens, runs, inner⟩ := h
  rw [tokenize_separator lead _ leadRun, tokenize_flatMap parts tokens runs inner, List.append_nil]

/-- One more delimiter joins the leading run. -/
theorem Splits.cons_delimiter {line : Line} {lead : Separator} {parts : List (Token × Separator)}
    {c : Byte} (h : Splits line lead parts) (hc : Delimiter c) :
    Splits (c :: line) (c :: lead) parts where
  whole := by rw [h.whole]; rfl
  leadRun := List.forall_mem_cons.2 ⟨hc, h.leadRun⟩
  tokens := h.tokens
  runs := h.runs
  inner := h.inner

/-- One more token byte in front of the first token joins it. -/
theorem Splits.cons_token {line : Line} {t : Token} {sep : Separator}
    {more : List (Token × Separator)} {c : Byte} (h : Splits line [] ((t, sep) :: more))
    (hc : ¬ Delimiter c) : Splits (c :: line) [] ((c :: t, sep) :: more) := by
  obtain ⟨whole, leadRun, tokens, runs, inner⟩ := h
  rw [List.forall_mem_cons] at tokens runs
  obtain ⟨⟨-, htoken⟩, htokens⟩ := tokens
  refine ⟨by rw [whole]; rfl, leadRun, ?_, List.forall_mem_cons.2 runs, ?_⟩
  · exact List.forall_mem_cons.2 ⟨⟨by simp, List.forall_mem_cons.2 ⟨hc, htoken⟩⟩, htokens⟩
  · cases more with
    | nil => simp
    | cons q more =>
      rw [List.dropLast_cons_cons, List.forall_mem_cons] at inner ⊢
      exact inner

/-- One more token byte in front of a separator run, or in front of nothing, is a token of its own. -/
theorem Splits.cons_new {line : Line} {lead : Separator} {parts : List (Token × Separator)}
    {c : Byte} (h : Splits line lead parts) (hc : ¬ Delimiter c)
    (hsep : lead ≠ [] ∨ parts = []) : Splits (c :: line) [] (([c], lead) :: parts) where
  whole := by rw [h.whole]; simp
  leadRun := by simp
  tokens := List.forall_mem_cons.2 ⟨by simpa using hc, h.tokens⟩
  runs := List.forall_mem_cons.2 ⟨h.leadRun, h.runs⟩
  inner := by
    cases parts with
    | nil => simp
    | cons q more =>
      rw [List.dropLast_cons_cons, List.forall_mem_cons]
      exact ⟨by simpa using hsep, h.inner⟩

/-- Pushing a byte in front keeps R80's conditions. -/
theorem Splits.push {line : Line} {s : SplitLine} (c : Byte) (h : Splits line s.lead s.parts) :
    Splits (c :: line) (s.push c).lead (s.push c).parts := by
  obtain ⟨lead, parts⟩ := s
  by_cases hd : isDelimiter c = true
  · rw [SplitLine.push, if_pos hd]
    exact h.cons_delimiter ((isDelimiter_iff c).1 hd)
  · have hc : ¬ Delimiter c := fun x => hd ((isDelimiter_iff c).2 x)
    rw [SplitLine.push, if_neg hd]
    match lead, parts with
    | [], (t, sep) :: more => exact h.cons_token hc
    | [], [] => exact h.cons_new hc (.inr rfl)
    | d :: lead, parts => exact h.cons_new hc (.inl (by simp))

/-- The tokenizer's answer is a decomposition of the line. -/
theorem tokenize_splits (line : Line) :
    Splits line (tokenize line).lead (tokenize line).parts := by
  induction line with
  | nil => exact ⟨rfl, by simp [tokenize], by simp [tokenize], by simp [tokenize], by simp [tokenize]⟩
  | cons c cs ih => exact ih.push c

/-- Settles O19: the tokenizer finds any decomposition of a line, and its answer is one. -/
theorem tokenizerGivesTheOneDecomposition : Obligations.TokenizerGivesTheOneDecomposition := by
  intro line lead parts
  refine ⟨Splits.tokenize_eq, fun h => ?_⟩
  have hs := tokenize_splits line
  rwa [h] at hs

/-! ### Comment and blank lines -/

/-- The blank bytes of the comment test (R81). -/
theorem isBlank_iff (c : Byte) : isBlank c = true ↔ c = 0x20#8 ∨ c = 0x09#8 := by
  simp [isBlank]

/-- A line that begins with a blank is a comment line if the rest is. -/
theorem commentLine_cons_of_blank {c : Byte} {cs : Line} (hc : c = 0x20#8 ∨ c = 0x09#8) :
    CommentLine (c :: cs) ↔ CommentLine cs := by
  constructor
  · rintro ⟨ws, rest, hline, hws⟩
    cases ws with
    | nil =>
      obtain ⟨rfl, -⟩ := List.cons.inj hline
      simp at hc
    | cons d ws =>
      obtain ⟨-, rfl⟩ := List.cons.inj hline
      exact ⟨ws, rest, rfl, (List.forall_mem_cons.1 hws).2⟩
  · rintro ⟨ws, rest, rfl, hws⟩
    exact ⟨c :: ws, rest, rfl, List.forall_mem_cons.2 ⟨hc, hws⟩⟩

/-- A line that begins with no blank is a comment line if it begins with `#`. -/
theorem commentLine_cons_of_not_blank {c : Byte} {cs : Line} (hc : ¬ (c = 0x20#8 ∨ c = 0x09#8)) :
    CommentLine (c :: cs) ↔ c = 0x23#8 := by
  constructor
  · rintro ⟨ws, rest, hline, hws⟩
    cases ws with
    | nil => exact (List.cons.inj hline).1
    | cons d ws =>
      obtain ⟨rfl, -⟩ := List.cons.inj hline
      exact absurd (hws c List.mem_cons_self) hc
  · rintro rfl
    exact ⟨[], cs, rfl, by simp⟩

/-- The comment test (R81). -/
theorem isComment_iff (line : Line) : isComment line = true ↔ CommentLine line := by
  induction line with
  | nil => simp [isComment, CommentLine]
  | cons c cs ih =>
    by_cases hb : isBlank c = true
    · rw [isComment, if_pos hb, ih, commentLine_cons_of_blank ((isBlank_iff c).1 hb)]
    · rw [isComment, if_neg hb, beq_iff_eq,
        commentLine_cons_of_not_blank fun hc => hb ((isBlank_iff c).2 hc)]

/-- A line has no token exactly when it holds delimiters alone (R82). -/
theorem tokenize_parts_eq_nil_iff (line : Line) :
    (tokenize line).parts = [] ↔ ∀ c ∈ line, Delimiter c := by
  constructor
  · intro h
    have hs := tokenize_splits line
    rw [h] at hs
    have hwhole : line = (tokenize line).lead := by simpa using hs.whole
    rw [hwhole]
    exact hs.leadRun
  · intro h
    have hline := tokenize_separator line [] h
    rw [List.append_nil] at hline
    rw [hline]; rfl

/-- The front end skips a comment line (R121). -/
theorem decodeLine_of_commentLine {line : Line} (h : CommentLine line) : decodeLine line = .skip := by
  rw [decodeLine, if_pos ((isComment_iff line).2 h)]

/-- The front end skips a line of delimiters (R122). -/
theorem decodeLine_of_delimiters {line : Line} (h : ∀ c ∈ line, Delimiter c) :
    decodeLine line = .skip := by
  simp [decodeLine, (tokenize_parts_eq_nil_iff line).2 h]

/-- A line that the front end skips answers Skip. -/
theorem step_of_decodeLine_skip {s : State} {line : Line} {rest : List HostOp}
    (h : s.pending = .submit line :: rest) (hi : InInterface line)
    (hd : decodeLine line = .skip) : step s = .next (answered s line rest .skip) := by
  rw [step_submit h hi, transact, hd, ← emitSkip_answered h]

/-- Settles O20, from the comment test and the step on a skipped line. -/
theorem commentLinesSkip : Obligations.CommentLinesSkip :=
  ⟨isComment_iff, fun _ _ _ h hi hc => step_of_decodeLine_skip h hi (decodeLine_of_commentLine hc)⟩

/-- Settles O21, from the tokenizer on delimiters and the step on a skipped line. -/
theorem blankLinesSkip : Obligations.BlankLinesSkip :=
  ⟨tokenize_parts_eq_nil_iff,
    fun _ _ _ h hi hc => step_of_decodeLine_skip h hi (decodeLine_of_delimiters hc)⟩

end Sys2Proof
end

section
/-!
PROOFS. One line through the two encoders. The table's packing of operand integers is each format's
word, the table's operand loop is each meaning's operand shape, and the table's front end answers as
the dispatcher's does (R120); so a step answers `Encode`, and rejects a mnemonic outside the table
(R123).
-/
namespace Sys2Proof.Machine

/-! ### Packing by the table's places

Both packings are ORs of the same fields. The table ORs its places onto the fixed fields and a format
ORs them from the top of the word down, so what `grind only` closes below is the order of the ORs. -/

/-- Placing an integer's pattern places the integer: both are masked to the same width. -/
theorem field_trunc_toNat (v : Int) (width lsb : Nat) :
    field (trunc width v).toNat width lsb = field v width lsb := by
  rw [field_eq_ofNat, field]

/-- Placing a slice of an integer's pattern places the shifted integer. -/
theorem field_extractLsb'_trunc {n : Nat} (v : Int) (lo width lsb : Nat) (h : lo + width ≤ n) :
    field ((trunc n v).extractLsb' lo width).toNat width lsb = field (v / 2 ^ lo) width lsb := by
  rw [extractLsb'_trunc n v lo width h, field_trunc_toNat]

/-- A slice that the table places in the word by arithmetic is the `field` of R78. -/
theorem bits_eq_field (p : Place) (a b c : Int) (h : p.width + p.lsb ≤ 32) :
    p.bits a b c = field (![a, b, c] p.operand / 2 ^ p.lo) p.width p.lsb := by
  obtain ⟨operand, lo, width, lsb⟩ := p
  have place (v : Int) : BitVec.ofNat 32 ((v % 2 ^ width).toNat * 2 ^ lsb) = field v width lsb := by
    apply BitVec.eq_of_toNat_eq
    rw [← trunc_toNat, Int.toNat_natCast, ← field_toNat_eq_trunc v h, BitVec.ofNat_toNat,
      BitVec.setWidth_eq]
  rw [Place.bits, place]
  fin_cases operand <;> rfl

/-- A row's match word is its funct3 and its opcode in place; funct7, where a row has one, is 0. -/
theorem row_fixed (x : Mnemonic) :
    (row x).fixed = field (funct3Of x).toNat 3 12 ||| field (opcodeOf x).toNat 7 0 := by
  cases x <;> decide

/-- Every slice the table places stays inside the word. -/
theorem row_places_fit (x : Mnemonic) : ∀ p ∈ (row x).places, p.width + p.lsb ≤ 32 := by
  cases x <;> decide

/-- The table's packing is the OR of the row's fixed fields and a `field` for each of its places. -/
theorem pack_eq_fields (x : Mnemonic) (a b c : Int) :
    (row x).pack a b c =
      (row x).places.foldl
        (fun w p => w ||| field (![a, b, c] p.operand / 2 ^ p.lo) p.width p.lsb)
        (field (funct3Of x).toNat 3 12 ||| field (opcodeOf x).toNat 7 0) := by
  rw [Row.pack, row_fixed]
  exact List.foldl_ext _ _ _ fun w p hp => by rw [bits_eq_field p a b c (row_places_fit x p hp)]

/-- The table packs a register row's indices as the R format does (R73). -/
theorem pack_regRegReg {x : Mnemonic}
    (h : (row x).places = [⟨2, 0, 5, 20⟩, ⟨1, 0, 5, 15⟩, ⟨0, 0, 5, 7⟩]) (d a b : BitVec 5) :
    (row x).pack d.toNat a.toNat b.toNat =
      encodeR funct7R b a (funct3Of x) d (opcodeOf x) := by
  have hf7 : field funct7R.toNat 7 25 = 0#32 := by decide
  simp only [pack_eq_fields, h, List.foldl_cons, List.foldl_nil, Matrix.cons_val, pow_zero,
    Int.ediv_one, encodeR, hf7, BitVec.zero_or]
  grind only

/-- The table packs `lw` as the I format does (R74). -/
theorem pack_lw (d : BitVec 5) (v : Int) (base : BitVec 5) :
    (row .lw).pack d.toNat v base.toNat =
      encodeI (trunc 12 v) base (funct3Of .lw) d (opcodeOf .lw) := by
  rw [pack_eq_fields]
  simp only [row, List.foldl_cons, List.foldl_nil, Matrix.cons_val, pow_zero,
    Int.ediv_one, encodeI, field_trunc_toNat]
  grind only

/-- The table packs `addi` as the I format does (R74). -/
theorem pack_addi (d a : BitVec 5) (v : Int) :
    (row .addi).pack d.toNat a.toNat v =
      encodeI (trunc 12 v) a (funct3Of .addi) d (opcodeOf .addi) := by
  rw [pack_eq_fields]
  simp only [row, List.foldl_cons, List.foldl_nil, Matrix.cons_val, pow_zero,
    Int.ediv_one, encodeI, field_trunc_toNat]
  grind only

/-- The table packs `sw` as the S format does, the offset in two slices (R75). -/
theorem pack_sw (data : BitVec 5) (v : Int) (base : BitVec 5) :
    (row .sw).pack data.toNat v base.toNat =
      encodeS (trunc 12 v) data base (funct3Of .sw) (opcodeOf .sw) := by
  rw [pack_eq_fields]
  simp (disch := decide) only [row, List.foldl_cons, List.foldl_nil, Matrix.cons_val,
    pow_zero, Int.ediv_one, encodeS, field_extractLsb'_trunc]
  grind only

/-- The table packs `bne` as the B format does, the displacement in four slices (R76). -/
theorem pack_bne (a b : BitVec 5) (v : Int) :
    (row .bne).pack a.toNat b.toNat v =
      encodeB (trunc 13 v) b a (funct3Of .bne) (opcodeOf .bne) := by
  rw [pack_eq_fields]
  simp (disch := decide) only [row, List.foldl_cons, List.foldl_nil, Matrix.cons_val,
    pow_zero, Int.ediv_one, encodeB, field_extractLsb'_trunc]
  grind only

/-! ### The table's operand loop -/

/-- A register operand of the table is the decoder's index as an integer (R85). -/
theorem resolveOperand_reg (mode : ImmMode) (i : OperandIndex) (t : Token) :
    resolveOperand mode .reg i t = (regDecode i t).map fun r => (r.toNat : Int) := by
  cases mode <;> rfl

/-- An IMM12 operand of a meaning is the pattern of the table's integer (R90). -/
theorem imm12Operand_eq_map (mode : ImmMode) (i : OperandIndex) (t : Token) :
    imm12Operand mode i t = (resolveOperand mode .imm12 i t).map (trunc 12) := by
  cases mode with
  | strict =>
    simp only [imm12Operand, resolveOperand]
    cases immParse i t with
    | error _ => rfl
    | ok v =>
      simp only [Except.bind, validate12]
      cases strictCheck12 i t v <;> rfl
  | legacy =>
    simp only [imm12Operand, resolveOperand]
    cases immParse i t <;> rfl

/-- An IMMB operand of a meaning is the pattern of the table's integer (R90). -/
theorem immBOperand_eq_map (mode : ImmMode) (i : OperandIndex) (t : Token) :
    immBOperand mode i t = (resolveOperand mode .immB i t).map (trunc 13) := by
  cases mode with
  | strict =>
    simp only [immBOperand, resolveOperand]
    cases immParse i t with
    | error _ => rfl
    | ok v =>
      simp only [Except.bind, validateB]
      cases strictCheckB i t v <;> rfl
  | legacy =>
    simp only [immBOperand, resolveOperand]
    cases immParse i t <;> rfl

section
variable {α β γ δ : Type} (f : α → δ) (a : Except LineError α) (b : Except LineError β)
  (c : Except LineError γ)

/-- What is done to the first operand's value can be left to the packing. -/
theorem inOrder_map_fst (pack : δ → β → γ → Word) :
    inOrder (a.map f) b c pack = inOrder a b c fun x y z => pack (f x) y z := by
  cases a <;> rfl

/-- What is done to the second operand's value can be left to the packing. -/
theorem inOrder_map_snd (pack : β → δ → γ → Word) :
    inOrder b (a.map f) c pack = inOrder b a c fun y x z => pack y (f x) z := by
  cases b <;> cases a <;> rfl

/-- What is done to the third operand's value can be left to the packing. -/
theorem inOrder_map_thd (pack : β → γ → δ → Word) :
    inOrder b c (a.map f) pack = inOrder b c a fun y z x => pack y z (f x) := by
  cases b <;> cases c <;> cases a <;> rfl

end

/-- The word the table gives a mnemonic's operand tokens, or the error of the first that fails: the
end of `encodeParts`. -/
def tableWord (mode : ImmMode) (x : Mnemonic) (ts : List Token) : Except LineError Word :=
  (resolveOperands mode ((row x).kinds.zip ([1, 2, 3].zip ts))).map fun vs =>
    (row x).pack (vs.getD 0 0) (vs.getD 1 0) (vs.getD 2 0)

/-- The loop over a row's three kinds resolves three operands in order (R126). -/
theorem tableWord_eq_inOrder {x : Mnemonic} {k1 k2 k3 : OperandKind}
    (hk : (row x).kinds = [k1, k2, k3]) (mode : ImmMode) (t1 t2 t3 : Token) :
    tableWord mode x [t1, t2, t3] =
      inOrder (resolveOperand mode k1 1 t1) (resolveOperand mode k2 2 t2)
        (resolveOperand mode k3 3 t3) (row x).pack := by
  simp only [tableWord, hk, List.zip_cons_cons, List.zip_nil_right, resolveOperands]
  cases resolveOperand mode k1 1 t1 <;> cases resolveOperand mode k2 2 t2 <;>
    cases resolveOperand mode k3 3 t3 <;> rfl

section
variable {x : Mnemonic} (mode : ImmMode) (t1 t2 t3 : Token)

/-- A row of three registers, packed alike, is the shape REG, REG, REG. -/
theorem tableWord_regRegReg {pack : BitVec 5 → BitVec 5 → BitVec 5 → Word}
    (hk : (row x).kinds = [.reg, .reg, .reg])
    (hp : ∀ a b c : BitVec 5, (row x).pack a.toNat b.toNat c.toNat = pack a b c) :
    tableWord mode x [t1, t2, t3] = regRegReg t1 t2 t3 pack := by
  simp only [tableWord_eq_inOrder hk, resolveOperand_reg, regRegReg, inOrder_map_fst,
    inOrder_map_snd, inOrder_map_thd, hp]

/-- A row of kinds REG, IMM12, REG, packed alike, is that shape. -/
theorem tableWord_regImmReg {pack : BitVec 5 → BitVec 12 → BitVec 5 → Word}
    (hk : (row x).kinds = [.reg, .imm12, .reg])
    (hp : ∀ (a : BitVec 5) (v : Int) (c : BitVec 5),
      (row x).pack a.toNat v c.toNat = pack a (trunc 12 v) c) :
    tableWord mode x [t1, t2, t3] = regImmReg mode t1 t2 t3 pack := by
  simp only [tableWord_eq_inOrder hk, resolveOperand_reg, regImmReg, imm12Operand_eq_map,
    inOrder_map_fst, inOrder_map_snd, inOrder_map_thd, hp]

/-- A row of kinds REG, REG, IMM12, packed alike, is that shape. -/
theorem tableWord_regRegImm {pack : BitVec 5 → BitVec 5 → BitVec 12 → Word}
    (hk : (row x).kinds = [.reg, .reg, .imm12])
    (hp : ∀ (a b : BitVec 5) (v : Int), (row x).pack a.toNat b.toNat v = pack a b (trunc 12 v)) :
    tableWord mode x [t1, t2, t3] = regRegImm mode t1 t2 t3 pack := by
  simp only [tableWord_eq_inOrder hk, resolveOperand_reg, regRegImm, imm12Operand_eq_map,
    inOrder_map_fst, inOrder_map_snd, inOrder_map_thd, hp]

/-- A row of kinds REG, REG, IMMB, packed alike, is that shape. -/
theorem tableWord_regRegBranch {pack : BitVec 5 → BitVec 5 → BitVec 13 → Word}
    (hk : (row x).kinds = [.reg, .reg, .immB])
    (hp : ∀ (a b : BitVec 5) (v : Int), (row x).pack a.toNat b.toNat v = pack a b (trunc 13 v)) :
    tableWord mode x [t1, t2, t3] = regRegBranch mode t1 t2 t3 pack := by
  simp only [tableWord_eq_inOrder hk, resolveOperand_reg, regRegBranch, immBOperand_eq_map,
    inOrder_map_fst, inOrder_map_snd, inOrder_map_thd, hp]

end

/-- Every meaning ends its transaction with the table's word or error (R150 to R180). -/
theorem exec_eq_respond (i : Instr) (s : State) :
    exec i s = respond i.mnemonic (tableWord s.immMode i.mnemonic i.operands) s := by
  cases i with
  | lw _ _ _ => exact congrArg (respond .lw · s) (tableWord_regImmReg _ _ _ _ rfl pack_lw).symm
  | sw _ _ _ => exact congrArg (respond .sw · s) (tableWord_regImmReg _ _ _ _ rfl pack_sw).symm
  | add _ _ _ =>
    exact congrArg (respond .add · s) (tableWord_regRegReg _ _ _ _ rfl (pack_regRegReg rfl)).symm
  | xor _ _ _ =>
    exact congrArg (respond .xor · s) (tableWord_regRegReg _ _ _ _ rfl (pack_regRegReg rfl)).symm
  | addi _ _ _ =>
    exact congrArg (respond .addi · s) (tableWord_regRegImm _ _ _ _ rfl pack_addi).symm
  | sll _ _ _ =>
    exact congrArg (respond .sll · s) (tableWord_regRegReg _ _ _ _ rfl (pack_regRegReg rfl)).symm
  | bne _ _ _ =>
    exact congrArg (respond .bne · s) (tableWord_regRegBranch _ _ _ _ rfl pack_bne).symm

/-! ### The response to a line -/

/-- What the block answers to a line that the front end has read, from state `s`. -/
def decodedResponse (s : State) (line : Line) : DecodedLine → Response
  | .skip => .skip
  | .rejected m e => rejection s line m e
  | .instr i => outcomeResponse s line i.mnemonic (tableWord s.immMode i.mnemonic i.operands)

/-- A step on a line inside the interface is R27's update with the response to what the front end
reads. -/
theorem step_eq_decodedResponse {s : State} {line : Line} {rest : List HostOp}
    (h : s.pending = .submit line :: rest) (hi : InInterface line) :
    step s = .next (answered s line rest (decodedResponse s line (decodeLine line))) := by
  rw [step_submit h hi, transact]
  cases decodeLine line with
  | skip => simp only [decodedResponse, emitSkip_answered h]
  | rejected m e => simp only [decodedResponse, raise_answered m e h]
  | instr i => simp only [decodedResponse, exec_eq_respond, respond_answered _ _ h]

/-- Other than three operand tokens are rejected by their number (R124). -/
theorem decodeOperands_of_length_ne {line : Line} {x : Mnemonic} {ops : List (Token × Separator)}
    (h : ops.length ≠ 3) :
    decodeOperands line x ops = .rejected x.text (.operandCount ops.length) := by
  rw [decodeOperands]
  rintro t1 sep2 t2 sep3 t3 sep4 rfl
  exact h rfl

/-- The count, the structure and the operands of a known mnemonic are answered as the table answers
them (R124 to R127). -/
theorem decodedResponse_decodeOperands (s : State) (line : Line) (x : Mnemonic)
    (ops : List (Token × Separator)) :
    decodedResponse s line (decodeOperands line x ops) =
      outcomeResponse s line x (encodeParts line s.immMode x.text ops) := by
  by_cases hlen : ops.length = 3
  · obtain ⟨⟨t1, sep2⟩, ⟨t2, sep3⟩, ⟨t3, sep4⟩, rfl⟩ := List.length_eq_three.1 hlen
    cases hstr : needsStructure x && !structureOk line sep3 sep4 with
    | true =>
      simp [decodeOperands, encodeParts, Config.operandsPerLine, hstr, decodedResponse,
        outcomeResponse]
    | false =>
      simp [decodeOperands, encodeParts, Config.operandsPerLine, hstr, decodedResponse, tableWord]
  · rw [decodeOperands_of_length_ne hlen]
    simp [encodeParts, Config.operandsPerLine, hlen, decodedResponse, outcomeResponse]

/-- The table's `Encode` is the response to what the front end reads (R120). -/
theorem encodeLine_eq_decodedResponse (s : State) (line : Line) :
    encodeLine line s.immMode (trunc 32 (s.lineNo.toNat + 1)) =
      decodedResponse s line (decodeLine line) := by
  by_cases hc : isComment line = true
  · rw [encodeLine, decodeLine, if_pos hc, if_pos hc, decodedResponse]
  · rw [encodeLine, decodeLine, if_neg hc, if_neg hc]
    cases (tokenize line).parts with
    | nil => rfl
    | cons p ops =>
      obtain ⟨m, sep⟩ := p
      cases hd : dispatch m with
      | none => simp [hd, encodeParts, decodedResponse, rejection]
      | some x =>
        obtain rfl := dispatch_some hd
        simp only [hd, decodedResponse_decodeOperands]
        cases encodeParts line s.immMode x.text ops <;> rfl

/-- Settles O33: the step and the table's `Encode` both answer what the front end reads. -/
theorem stepRefinesEncode : Obligations.StepRefinesEncode := by
  intro s line rest h hi
  rw [step_eq_decodedResponse h hi, encodeLine_eq_decodedResponse]

/-- The front end rejects a line whose first token is no mnemonic, whatever follows (R123). -/
theorem decodeLine_of_unknown_mnemonic {line : Line} {lead sep : Separator} {m : Token}
    {ops : List (Token × Separator)} (hc : ¬ CommentLine line)
    (hs : Splits line lead ((m, sep) :: ops)) (hm : ∀ x : Mnemonic, m ≠ x.text) :
    decodeLine line = .rejected m (.unsupportedMnemonic m) := by
  rw [decodeLine, if_neg (mt (isComment_iff line).1 hc), hs.tokenize_eq]
  simp only [dispatch_none hm]

/-- Settles O22: the front end rejects the line, and the step answers the rejection. -/
theorem unknownMnemonicRejected : Obligations.UnknownMnemonicRejected := by
  rintro s line rest m ops ⟨h, hi, hc, lead, sep, hs⟩ hm
  rw [step_eq_decodedResponse h hi, decodeLine_of_unknown_mnemonic hc hs hm, decodedResponse]

end Sys2Proof.Machine
end

section
/-!
PROOFS. `lw` and `sw`: three resolved operands through `respond`, a line that begins with a mnemonic
through the front end, and the two statements (R150, R151).
-/
namespace Sys2Proof.Machine

/-! ### Operand verdicts -/

/-- A verdict on a register token is what the decoder answers (R85). -/
theorem regDecode_of_regVerdict {i : OperandIndex} {t : Token} {r : Except LineError (BitVec 5)}
    (h : RegVerdict i t r) : regDecode i t = r :=
  (registerDecoderVerdict i t r).2 h

/-- A verdict on an IMM12 token is what the operand stage answers (R87, R90, R92, R93). -/
theorem imm12Operand_of_imm12Verdict {mode : ImmMode} {i : OperandIndex} {t : Token}
    {r : Except LineError (BitVec 12)} (h : Imm12Verdict mode i t r) :
    imm12Operand mode i t = r := by
  cases h with
  | pattern v hv hfits =>
    cases mode with
    | strict => exact (imm12Operand_strict i hv).trans (if_pos (hfits rfl))
    | legacy => exact imm12Operand_legacy i hv
  | range v hv hmode hfits => rw [hmode, imm12Operand_strict_outside i hv hfits]
  | form h => exact imm12Operand_of_not_immediateToken mode i h

/-! ### Three resolved operands -/

section
variable {s : State} {line : Line} {rest : List HostOp}

/-- Three operands that resolve answer their packed word (R127). -/
theorem respond_inOrder_word {α β γ : Type} {a : Except LineError α} {b : Except LineError β}
    {c : Except LineError γ} {x : α} {y : β} {z : γ} (m : Mnemonic) (pack : α → β → γ → Word)
    (h : s.pending = .submit line :: rest) (ha : a = .ok x) (hb : b = .ok y) (hc : c = .ok z) :
    respond m (inOrder a b c pack) s = .next (answered s line rest (.word (pack x y z))) := by
  rw [respond_answered m _ h, inOrder_ok.2 ⟨x, y, z, ha, hb, hc, rfl⟩, outcomeResponse]

/-- The first of three operands that fails is the error that is answered (R126). -/
theorem respond_inOrder_firstError {α β γ : Type} {a : Except LineError α}
    {b : Except LineError β} {c : Except LineError γ} {e : LineError} (m : Mnemonic)
    (pack : α → β → γ → Word) (h : s.pending = .submit line :: rest) (he : FirstError a b c e) :
    respond m (inOrder a b c pack) s = .next (answered s line rest (rejection s line m.text e)) := by
  rw [respond_answered m _ h, inOrder_error.2 he, outcomeResponse]

variable {t1 t2 t3 : Token} (m : Mnemonic) (pack : BitVec 5 → BitVec 12 → BitVec 5 → Word)

/-- Operands that read as REG, IMM12, REG answer the word packed from their fields. -/
theorem respond_regImmReg_word {n1 n3 : Nat} {v : Int} (h : s.pending = .submit line :: rest)
    (h1 : RegisterToken t1 n1) (hn1 : n1 ≤ 31) (h2 : ImmediateToken t2 v)
    (hv : s.immMode = .strict → Fits12 v) (h3 : RegisterToken t3 n3) (hn3 : n3 ≤ 31) :
    respond m (regImmReg s.immMode t1 t2 t3 pack) s =
      .next (answered s line rest
        (.word (pack (BitVec.ofNat 5 n1) (trunc 12 v) (BitVec.ofNat 5 n3)))) :=
  respond_inOrder_word m pack h (regDecode_of_regVerdict (.index n1 h1 hn1))
    (imm12Operand_of_imm12Verdict (.pattern v h2 hv))
    (regDecode_of_regVerdict (.index n3 h3 hn3))

/-- Operands of the shape REG, IMM12, REG answer the error of the first verdict that fails. -/
theorem respond_regImmReg_firstError {r1 r3 : Except LineError (BitVec 5)}
    {r2 : Except LineError (BitVec 12)} {e : LineError} (h : s.pending = .submit line :: rest)
    (h1 : RegVerdict 1 t1 r1) (h2 : Imm12Verdict s.immMode 2 t2 r2) (h3 : RegVerdict 3 t3 r3)
    (he : FirstError r1 r2 r3 e) :
    respond m (regImmReg s.immMode t1 t2 t3 pack) s =
      .next (answered s line rest (rejection s line m.text e)) := by
  rw [← regDecode_of_regVerdict h1, ← imm12Operand_of_imm12Verdict h2,
    ← regDecode_of_regVerdict h3] at he
  exact respond_inOrder_firstError m pack h he

end

/-! ### A line that begins with a mnemonic -/

section
variable {s : State} {line : Line} {rest : List HostOp} {x : Mnemonic}

/-- A line whose first token is a mnemonic goes to the operand checks (R79, R120). -/
theorem decodeLine_of_mnemonic {lead sep : Separator} {ops : List (Token × Separator)}
    (hc : ¬ CommentLine line) (hs : Splits line lead ((x.text, sep) :: ops)) :
    decodeLine line = decodeOperands line x ops := by
  rw [decodeLine, if_neg (mt (isComment_iff line).1 hc), hs.tokenize_eq]
  simp only [dispatch_text]

/-- A step on such a line is R27's update with the response to what those checks make of the
operands. -/
theorem step_of_onLine_mnemonic {ops : List (Token × Separator)}
    (hl : OnLine s line rest x.text ops) :
    step s = .next (answered s line rest (decodedResponse s line (decodeOperands line x ops))) := by
  obtain ⟨h, hi, hc, lead, sep, hs⟩ := hl
  rw [step_eq_decodedResponse h hi, decodeLine_of_mnemonic hc hs]

/-- A known mnemonic with other than three operand tokens answers COUNT (R124). -/
theorem step_of_length_ne {ops : List (Token × Separator)} (hl : OnLine s line rest x.text ops)
    (hlen : ops.length ≠ 3) :
    step s = .next (answered s line rest (rejection s line x.text (.operandCount ops.length))) := by
  rw [step_of_onLine_mnemonic hl, decodeOperands_of_length_ne hlen, decodedResponse]

variable {t1 t2 t3 : Token} {sep2 sep3 sep4 : Separator}

/-- Three operand tokens, in the structure of R84 where the mnemonic needs it, are the instruction
whose meaning is the step (R120). -/
theorem step_of_structure (hl : OnLine s line rest x.text [(t1, sep2), (t2, sep3), (t3, sep4)])
    (hstr : needsStructure x = true → HasStructure line sep3 sep4) :
    step s = exec (x.instr t1 t2 t3) s := by
  obtain ⟨h, hi, hc, lead, sep, hs⟩ := hl
  have hcheck : ¬ (needsStructure x && !structureOk line sep3 sep4) = true := by
    simpa [structureOk_iff] using hstr
  rw [step_submit h hi, transact, decodeLine_of_mnemonic hc hs, decodeOperands, if_neg hcheck]

/-- Three operand tokens without the structure that the mnemonic needs answer STRUCTURE (R125). -/
theorem step_of_not_structure
    (hl : OnLine s line rest x.text [(t1, sep2), (t2, sep3), (t3, sep4)])
    (hx : needsStructure x = true) (hstr : ¬ HasStructure line sep3 sep4) :
    step s = .next (answered s line rest (rejection s line x.text .structureAbsent)) := by
  have hcheck : (needsStructure x && !structureOk line sep3 sep4) = true := by
    simpa [hx, ← structureOk_iff] using hstr
  rw [step_of_onLine_mnemonic hl, decodeOperands, if_pos hcheck, decodedResponse]

end

/-! ### The two statements -/

/-- Settles O24: the operands are REG, IMM12, REG and the word is the I format's (R74); the line goes
through the checks of a mnemonic that needs the structure. -/
theorem lwEncodesOrRejects : Obligations.LwEncodesOrRejects := by
  refine ⟨fun s line rest t1 t2 t3 rd rs1 v h h1 hrd h2 hv h3 hrs1 => ?_,
    fun _ _ _ _ _ _ _ _ _ _ h h1 h2 h3 he => respond_regImmReg_firstError .lw _ h h1 h2 h3 he,
    fun _ _ _ _ hl hlen => step_of_length_ne (x := .lw) hl hlen,
    fun _ _ _ _ _ _ _ _ _ hl => ⟨fun hstr => step_of_structure (x := .lw) hl fun _ => hstr,
      fun hstr => step_of_not_structure (x := .lw) hl rfl hstr⟩⟩
  rw [← iFormatLayout]
  exact respond_regImmReg_word .lw _ h h1 hrd h2 hv h3 hrs1

/-- Settles O25: the operands are REG, IMM12, REG and the word is the S format's, the first operand in
its rs2 field (R75); the line goes through the checks of a mnemonic that needs the structure. -/
theorem swEncodesOrRejects : Obligations.SwEncodesOrRejects := by
  refine ⟨fun s line rest t1 t2 t3 rs2 rs1 v h h1 hrs2 h2 hv h3 hrs1 => ?_,
    fun _ _ _ _ _ _ _ _ _ _ h h1 h2 h3 he => respond_regImmReg_firstError .sw _ h h1 h2 h3 he,
    fun _ _ _ _ hl hlen => step_of_length_ne (x := .sw) hl hlen,
    fun _ _ _ _ _ _ _ _ _ hl => ⟨fun hstr => step_of_structure (x := .sw) hl fun _ => hstr,
      fun hstr => step_of_not_structure (x := .sw) hl rfl hstr⟩⟩
  rw [← sFormatLayout]
  exact respond_regImmReg_word .sw _ h h1 hrs2 h2 hv h3 hrs1

end Sys2Proof.Machine
end

section
/-!
PROOFS. `add`, `xor` and `sll`: three resolved register tokens through `respond`, a line of a mnemonic
that needs no structure, and the three statements (R160, R161, R162).
-/
namespace Sys2Proof.Machine

section
variable {s : State} {line : Line} {rest : List HostOp} {t1 t2 t3 : Token}

/-! ### Three register operands -/

/-- Operands that read as REG, REG, REG answer the R word of their indices, destination first; the
policy is not read (R73, R160). -/
theorem respond_regRegReg_word {rd rs1 rs2 : Nat} (m : Mnemonic) (f7 : BitVec 7) (f3 : BitVec 3)
    (opc : BitVec 7) (h : s.pending = .submit line :: rest)
    (h1 : RegisterToken t1 rd) (hrd : rd ≤ 31) (h2 : RegisterToken t2 rs1) (hrs1 : rs1 ≤ 31)
    (h3 : RegisterToken t3 rs2) (hrs2 : rs2 ≤ 31) :
    respond m (regRegReg t1 t2 t3 fun d a b => encodeR f7 b a f3 d opc) s =
      .next (answered s line rest (.word (f7 ++ BitVec.ofNat 5 rs2 ++ BitVec.ofNat 5 rs1 ++ f3
        ++ BitVec.ofNat 5 rd ++ opc))) := by
  rw [← rFormatLayout]
  exact respond_inOrder_word m _ h (regDecode_of_regVerdict (.index rd h1 hrd))
    (regDecode_of_regVerdict (.index rs1 h2 hrs1)) (regDecode_of_regVerdict (.index rs2 h3 hrs2))

/-- Operands of the shape REG, REG, REG answer the error of the first verdict that fails (R126). -/
theorem respond_regRegReg_firstError {r1 r2 r3 : Except LineError (BitVec 5)} {e : LineError}
    (m : Mnemonic) (pack : BitVec 5 → BitVec 5 → BitVec 5 → Word)
    (h : s.pending = .submit line :: rest) (h1 : RegVerdict 1 t1 r1) (h2 : RegVerdict 2 t2 r2)
    (h3 : RegVerdict 3 t3 r3) (he : FirstError r1 r2 r3 e) :
    respond m (regRegReg t1 t2 t3 pack) s =
      .next (answered s line rest (rejection s line m.text e)) := by
  rw [← regDecode_of_regVerdict h1, ← regDecode_of_regVerdict h2,
    ← regDecode_of_regVerdict h3] at he
  exact respond_inOrder_firstError m pack h he

/-! ### A mnemonic that needs no structure -/

/-- Three operand tokens of a mnemonic outside R84 are the instruction whose meaning is the step,
whatever separates them (R83, R120). -/
theorem step_of_unstructured {x : Mnemonic} {sep2 sep3 sep4 : Separator}
    (hl : OnLine s line rest x.text [(t1, sep2), (t2, sep3), (t3, sep4)])
    (hx : needsStructure x = false) : step s = exec (x.instr t1 t2 t3) s :=
  step_of_structure hl fun hneeds => absurd hneeds (by simp [hx])

end

/-! ### The three statements -/

/-- Settles O26: the operands are REG, REG, REG and the word is the R format's with funct3 000 (R73). -/
theorem addEncodesOrRejects : Obligations.AddEncodesOrRejects :=
  ⟨fun _ _ _ _ _ _ _ _ _ => respond_regRegReg_word .add _ _ _,
    fun _ _ _ _ _ _ _ _ _ _ => respond_regRegReg_firstError .add _,
    fun _ _ _ _ => step_of_length_ne (x := .add),
    fun _ _ _ _ _ _ _ _ _ hl => step_of_unstructured (x := .add) hl rfl⟩

/-- Settles O27: the operands are REG, REG, REG and the word is the R format's with funct3 100 (R73). -/
theorem xorEncodesOrRejects : Obligations.XorEncodesOrRejects :=
  ⟨fun _ _ _ _ _ _ _ _ _ => respond_regRegReg_word .xor _ _ _,
    fun _ _ _ _ _ _ _ _ _ _ => respond_regRegReg_firstError .xor _,
    fun _ _ _ _ => step_of_length_ne (x := .xor),
    fun _ _ _ _ _ _ _ _ _ hl => step_of_unstructured (x := .xor) hl rfl⟩

/-- Settles O28: the operands are REG, REG, REG, the shift amount a register token too, and the word is
the R format's with funct3 001 (R73). -/
theorem sllEncodesOrRejects : Obligations.SllEncodesOrRejects :=
  ⟨fun _ _ _ _ _ _ _ _ _ => respond_regRegReg_word .sll _ _ _,
    fun _ _ _ _ _ _ _ _ _ _ => respond_regRegReg_firstError .sll _,
    fun _ _ _ _ => step_of_length_ne (x := .sll),
    fun _ _ _ _ _ _ _ _ _ hl => step_of_unstructured (x := .sll) hl rfl⟩

end Sys2Proof.Machine
end

section
/-!
PROOFS. `addi`: two resolved register tokens and an IMM12 token through `respond`, and the statement
(R170).
-/
namespace Sys2Proof.Machine

section
variable {s : State} {line : Line} {rest : List HostOp} {t1 t2 t3 : Token}

/-! ### Two register operands and an immediate -/

/-- Operands that read as REG, REG, IMM12 answer the I word of the two indices and the immediate's
pattern, destination first (R74, R170). -/
theorem respond_regRegImm_word {rd rs1 : Nat} {v : Int} (m : Mnemonic) (f3 : BitVec 3)
    (opc : BitVec 7) (h : s.pending = .submit line :: rest)
    (h1 : RegisterToken t1 rd) (hrd : rd ≤ 31) (h2 : RegisterToken t2 rs1) (hrs1 : rs1 ≤ 31)
    (h3 : ImmediateToken t3 v) (hfits : s.immMode = .strict → Fits12 v) :
    respond m (regRegImm s.immMode t1 t2 t3 fun d a b => encodeI b a f3 d opc) s =
      .next (answered s line rest (.word (trunc 12 v ++ BitVec.ofNat 5 rs1 ++ f3
        ++ BitVec.ofNat 5 rd ++ opc))) := by
  rw [← iFormatLayout]
  exact respond_inOrder_word m _ h (regDecode_of_regVerdict (.index rd h1 hrd))
    (regDecode_of_regVerdict (.index rs1 h2 hrs1))
    (imm12Operand_of_imm12Verdict (.pattern v h3 hfits))

/-- Operands of the shape REG, REG, IMM12 answer the error of the first verdict that fails (R126). -/
theorem respond_regRegImm_firstError {r1 r2 : Except LineError (BitVec 5)}
    {r3 : Except LineError (BitVec 12)} {e : LineError} (m : Mnemonic)
    (pack : BitVec 5 → BitVec 5 → BitVec 12 → Word) (h : s.pending = .submit line :: rest)
    (h1 : RegVerdict 1 t1 r1) (h2 : RegVerdict 2 t2 r2) (h3 : Imm12Verdict s.immMode 3 t3 r3)
    (he : FirstError r1 r2 r3 e) :
    respond m (regRegImm s.immMode t1 t2 t3 pack) s =
      .next (answered s line rest (rejection s line m.text e)) := by
  rw [← regDecode_of_regVerdict h1, ← regDecode_of_regVerdict h2,
    ← imm12Operand_of_imm12Verdict h3] at he
  exact respond_inOrder_firstError m pack h he

end

/-! ### The statement -/

/-- Settles O29: the operands are REG, REG, IMM12 and the word is the I format's with funct3 000 (R74);
the line goes through the checks of a mnemonic that needs no structure. -/
theorem addiEncodesOrRejects : Obligations.AddiEncodesOrRejects :=
  ⟨fun _ _ _ _ _ _ _ _ _ => respond_regRegImm_word .addi _ _,
    fun _ _ _ _ _ _ _ _ _ _ => respond_regRegImm_firstError .addi _,
    fun _ _ _ _ => step_of_length_ne (x := .addi),
    fun _ _ _ _ _ _ _ _ _ hl => step_of_unstructured (x := .addi) hl rfl⟩

end Sys2Proof.Machine
end

section
/-!
PROOFS. `bne`: two resolved register tokens and an IMMB token through `respond`, and the statement
(R180).
-/
namespace Sys2Proof.Machine

/-! ### The verdict on a displacement -/

/-- An IMMB operand under STRICT: the range is checked before evenness (R92). -/
theorem immBOperand_strict {t : Token} {v : Int} (i : OperandIndex) (h : ImmediateToken t v) :
    immBOperand .strict i t =
      if ¬ (-4096 ≤ v ∧ v ≤ 4095) then .error (.immediateRange i t)
      else if v % 2 ≠ 0 then .error (.immediateOdd i t)
      else .ok (trunc 13 v) := by
  rw [immBOperand_of_immediateToken .strict i h, validateB_strict]

/-- A verdict on an IMMB token is what the operand stage answers (R87, R90, R92, R93). -/
theorem immBOperand_of_immBVerdict {mode : ImmMode} {i : OperandIndex} {t : Token}
    {r : Except LineError (BitVec 13)} (h : ImmBVerdict mode i t r) :
    immBOperand mode i t = r := by
  cases h with
  | pattern v hv hfits =>
    cases mode with
    | strict =>
      obtain ⟨hrange, heven⟩ := hfits rfl
      exact (immBOperand_strict i hv).trans
        ((if_neg (not_not_intro hrange)).trans (if_neg (not_not_intro heven)))
    | legacy => exact immBOperand_legacy i hv
  | range v hv hmode hrange =>
    rw [hmode]
    exact (immBOperand_strict i hv).trans (if_pos hrange)
  | odd v hv hmode hrange hodd =>
    rw [hmode]
    exact (immBOperand_strict i hv).trans ((if_neg (not_not_intro hrange)).trans (if_pos hodd))
  | form h => exact immBOperand_of_not_immediateToken mode i h

section
variable {s : State} {line : Line} {rest : List HostOp} {t1 t2 t3 : Token}

/-! ### Two register operands and a displacement -/

/-- Operands that read as REG, REG, IMMB answer the B word of the two indices and the displacement's
scattered pattern; the first operand goes into the rs1 field (R76, R180). -/
theorem respond_regRegBranch_word {rs1 rs2 : Nat} {v : Int} (m : Mnemonic) (f3 : BitVec 3)
    (opc : BitVec 7) (h : s.pending = .submit line :: rest)
    (h1 : RegisterToken t1 rs1) (hrs1 : rs1 ≤ 31) (h2 : RegisterToken t2 rs2) (hrs2 : rs2 ≤ 31)
    (h3 : ImmediateToken t3 v) (hfits : s.immMode = .strict → FitsB v ∧ v % 2 = 0) :
    respond m (regRegBranch s.immMode t1 t2 t3 fun a b disp => encodeB disp b a f3 opc) s =
      .next (answered s line rest (.word ((trunc 13 v).extractLsb 12 12
        ++ (trunc 13 v).extractLsb 10 5 ++ BitVec.ofNat 5 rs2 ++ BitVec.ofNat 5 rs1 ++ f3
        ++ (trunc 13 v).extractLsb 4 1 ++ (trunc 13 v).extractLsb 11 11 ++ opc))) := by
  obtain ⟨hlayout, -⟩ := bFormatLayout
  rw [← hlayout]
  exact respond_inOrder_word m _ h (regDecode_of_regVerdict (.index rs1 h1 hrs1))
    (regDecode_of_regVerdict (.index rs2 h2 hrs2))
    (immBOperand_of_immBVerdict (.pattern v h3 hfits))

/-- Operands of the shape REG, REG, IMMB answer the error of the first verdict that fails (R126). -/
theorem respond_regRegBranch_firstError {r1 r2 : Except LineError (BitVec 5)}
    {r3 : Except LineError (BitVec 13)} {e : LineError} (m : Mnemonic)
    (pack : BitVec 5 → BitVec 5 → BitVec 13 → Word) (h : s.pending = .submit line :: rest)
    (h1 : RegVerdict 1 t1 r1) (h2 : RegVerdict 2 t2 r2) (h3 : ImmBVerdict s.immMode 3 t3 r3)
    (he : FirstError r1 r2 r3 e) :
    respond m (regRegBranch s.immMode t1 t2 t3 pack) s =
      .next (answered s line rest (rejection s line m.text e)) := by
  rw [← regDecode_of_regVerdict h1, ← regDecode_of_regVerdict h2,
    ← immBOperand_of_immBVerdict h3] at he
  exact respond_inOrder_firstError m pack h he

end

/-! ### The statement -/

/-- Settles O30: the operands are REG, REG, IMMB and the word is the B format's with funct3 001, the
displacement in four slices (R76); the line goes through the checks of a mnemonic that needs no
structure. -/
theorem bneEncodesOrRejects : Obligations.BneEncodesOrRejects :=
  ⟨fun _ _ _ _ _ _ _ _ _ => respond_regRegBranch_word .bne _ _,
    fun _ _ _ _ _ _ _ _ _ _ => respond_regRegBranch_firstError .bne _,
    fun _ _ _ _ => step_of_length_ne (x := .bne),
    fun _ _ _ _ _ _ _ _ _ hl => step_of_unstructured (x := .bne) hl rfl⟩

end Sys2Proof.Machine
end

section
/-!
PROOFS. Errors as the block's exceptions: everything a step can do, STATUS.ERR over runs (R210), the
effect of an error response (R205), the codes a response carries (R201), and the cause that each
diagnostic records (R203).
-/
namespace Sys2Proof.Machine

/-! ### Everything a step can do -/

/-- The next states of `s`: the idle block, or the operation at the head of the pending ones, completed
(R29, R217). -/
inductive StepsTo (s : State) : State → Prop where
  | idle : s.pending = [] → StepsTo s s
  | reset {rest : List HostOp} : s.pending = .reset :: rest →
      StepsTo s
        { immMode := .strict, lineNo := 0, errCount := 0, pending := rest,
          log := { op := .reset, ret := .nothing } :: s.log }
  | writeReg {i : Nat} {v : Word} {rest : List HostOp} : s.pending = .writeReg i v :: rest → i ≤ 3 →
      StepsTo s
        { s with
          immMode := (s.regs.after (.writeReg i v)).immMode
          pending := rest
          log := { op := .writeReg i v, ret := .nothing } :: s.log }
  | readReg {i : Nat} {rest : List HostOp} : s.pending = .readReg i :: rest → i ≤ 3 →
      StepsTo s
        { s with
          pending := rest
          log := { op := .readReg i, ret := s.regs.returns (.readReg i) } :: s.log }
  | submit {line : Line} {rest : List HostOp} : s.pending = .submit line :: rest →
      InInterface line →
      StepsTo s (answered s line rest (decodedResponse s line (decodeLine line)))

/-- A step answers a next state in one of these ways only. -/
theorem stepsTo_of_step {s t : State} (hs : step s = .next t) : StepsTo s t := by
  cases h : s.pending with
  | nil =>
    rw [step_idle h] at hs
    cases hs
    exact .idle h
  | cons op rest =>
    have hi := opInInterface_of_step h hs
    cases op with
    | reset =>
      rw [step_reset h] at hs
      cases hs
      exact .reset h
    | writeReg i v =>
      rw [step_writeReg_inside h hi] at hs
      cases hs
      exact .writeReg h hi
    | readReg i =>
      rw [step_readReg_inside h hi] at hs
      cases hs
      exact .readReg h hi
    | submit line =>
      rw [step_eq_decodedResponse h hi] at hs
      cases hs
      exact .submit h hi

/-- A step takes the operation at the head of the pending ones, if there is one. -/
theorem pending_of_step {s t : State} (hs : step s = .next t) : t.pending = s.pending.tail := by
  cases stepsTo_of_step hs with
  | idle h => simp [h]
  | reset h => simp [h]
  | writeReg h _ => simp [h]
  | readReg h _ => simp [h]
  | submit h _ => simp [h, answered]

/-- The response that a step records is the one to what the front end reads, and R27's update with it is
all that the step does. -/
theorem answered_of_log {s t : State} {line : Line} {rest : List HostOp} {r : Response}
    (h : s.pending = .submit line :: rest) (hs : step s = .next t)
    (hlog : t.log = { op := .submit line, ret := .response r } :: s.log) :
    t = answered s line rest r ∧ decodedResponse s line (decodeLine line) = r := by
  rw [step_eq_decodedResponse h (opInInterface_of_step h hs)] at hs
  cases hs
  have hr : decodedResponse s line (decodeLine line) = r := by simpa [answered] using hlog
  exact ⟨by rw [hr], hr⟩

/-! ### STATUS.ERR over steps and runs -/

/-- One more error leaves a count that is not 0, for the count saturates (R27). -/
theorem nextErrCount_ne_zero (n : Word) : nextErrCount n ≠ 0 := by
  intro h
  have hn := nextErrCount_toNat n
  have h0 : (0 : Word).toNat = 0 := rfl
  rw [h] at hn
  omega

/-- An answered line leaves the error count as it was or counts one more error (R27). -/
theorem answered_errCount (s : State) (line : Line) (rest : List HostOp) (r : Response) :
    (answered s line rest r).errCount = if isError r then nextErrCount s.errCount else s.errCount :=
  rfl

/-- An error response sets STATUS.ERR (R25, R205). -/
theorem statusErr_answered_error (s : State) (line : Line) (rest : List HostOp) (d : Diagnostic) :
    (answered s line rest (.error d)).statusErr = true :=
  (State.statusErr_iff _).2 (nextErrCount_ne_zero s.errCount)

/-- No step but one that takes `Reset` clears STATUS.ERR (R210). -/
theorem statusErr_of_step {s t : State} (hs : step s = .next t) (he : s.statusErr = true)
    (hop : ∀ op ∈ s.pending.head?, op ≠ .reset) : t.statusErr = true := by
  rw [State.statusErr_iff] at he ⊢
  cases stepsTo_of_step hs with
  | idle _ => exact he
  | reset h => simp [h] at hop
  | writeReg _ _ => exact he
  | readReg _ _ => exact he
  | submit _ _ =>
    rw [answered_errCount]
    split
    · exact nextErrCount_ne_zero s.errCount
    · exact he

/-- A run of `k + 1` steps to a next state is a step to a next state and a run of `k` from it. -/
theorem run_succ_next {k : Nat} {s t : State} (h : run (k + 1) s = .next t) :
    ∃ u, step s = .next u ∧ run k u = .next t := by
  rw [run_succ] at h
  split at h
  · exact ⟨_, ‹_›, h⟩
  · cases h
  · cases h

/-- Settles O53, by induction on the number of steps: each takes the head of the pending operations,
which is no `Reset`. -/
theorem errorStatusIsSticky : Obligations.ErrorStatusIsSticky := by
  intro k
  induction k with
  | zero =>
    intro s t he _ hrun
    cases hrun
    exact he
  | succ k ih =>
    intro s t he hop hrun
    obtain ⟨u, hs, hrun⟩ := run_succ_next hrun
    have hhead : ∀ op ∈ s.pending.head?, op ≠ .reset := fun op hmem =>
      hop op (List.mem_of_mem_head? (by simpa [List.head?_take] using hmem))
    have htail : u.pending.take k = (s.pending.take (k + 1)).tail := by
      rw [pending_of_step hs, List.tail_take_eq_take_tail, Nat.add_sub_cancel]
    exact ih u t (statusErr_of_step hs he hhead)
      (fun op hmem => hop op (List.mem_of_mem_tail (htail ▸ hmem))) hrun

/-! ### The effect of an error response -/

/-- Settles O37: the step is R27's update with an error response, which goes to the diagnostic sink
alone. -/
theorem errorEntryEffect : Obligations.ErrorEntryEffect := by
  intro s t line rest d h hs hlog
  have hresp := State.responses_of_log hlog
  obtain ⟨rfl, -⟩ := answered_of_log h hs hlog
  exact ⟨by simpa [wordOf] using State.wordSink_of_responses hresp,
    State.diagnosticSink_of_responses hresp, trunc_succ_eq_nextLineNo s.lineNo,
    nextErrCount_toNat s.errCount, statusErr_answered_error s line rest d, rfl, rfl⟩

/-! ### The codes of a response -/

/-- The codes of each raise are a pair of R201's table. -/
theorem raise_codes_mem (e : LineError) :
    (kindCode (errorKind e), subCode (errorSub e)) ∈
      [(2, 0), (3, 1), (3, 2), (3, 3), (4, 4), (4, 5), (5, 5), (5, 6)] := by
  cases e <;> simp [errorKind, errorSub, kindCode, subCode]

/-- The response to a line that the front end has read is a word, a skip or the rejection of a raise. -/
theorem decodedResponse_cases (s : State) (line : Line) (dl : DecodedLine) :
    (∃ w, decodedResponse s line dl = .word w) ∨ decodedResponse s line dl = .skip ∨
      ∃ m e, decodedResponse s line dl = rejection s line m e := by
  cases dl with
  | skip => exact .inr (.inl rfl)
  | rejected m e => exact .inr (.inr ⟨m, e, rfl⟩)
  | instr i =>
    rw [decodedResponse]
    cases tableWord s.immMode i.mnemonic i.operands with
    | ok w => exact .inl ⟨w, rfl⟩
    | error e => exact .inr (.inr ⟨i.mnemonic.text, e, rfl⟩)

/-- Settles O36: the tables compute, and a step answers a word, a skip or the rejection of a raise. -/
theorem responseCodesAreLegal : Obligations.ResponseCodesAreLegal := by
  refine ⟨fun _ => ⟨rfl, rfl⟩, rfl, rfl, rfl, rfl, fun _ => ⟨rfl, rfl⟩,
    fun _ _ _ _ _ _ => ⟨rfl, rfl, rfl, rfl, rfl, rfl, rfl, rfl⟩, ?_⟩
  intro s t line rest r h hs hlog
  obtain ⟨-, rfl⟩ := answered_of_log h hs hlog
  obtain ⟨w, hr⟩ | hr | ⟨m, e, hr⟩ := decodedResponse_cases s line (decodeLine line)
  · rw [hr]
    exact List.mem_cons_self
  · rw [hr]
    exact List.mem_cons_of_mem _ List.mem_cons_self
  · rw [hr]
    exact List.mem_cons_of_mem _ (List.mem_cons_of_mem _ (raise_codes_mem e))

/-! ### Why an operand fails -/

/-- The IMM12 stage answers a verdict (R87, R90, R92, R93). -/
theorem imm12Operand_imm12Verdict (mode : ImmMode) (i : OperandIndex) (t : Token) :
    Imm12Verdict mode i t (imm12Operand mode i t) := by
  by_cases h : ∃ v, ImmediateToken t v
  · obtain ⟨v, hv⟩ := h
    by_cases hfits : mode = .strict → Fits12 v
    · rw [imm12Operand_of_imm12Verdict (.pattern v hv hfits)]
      exact .pattern v hv hfits
    · obtain ⟨hmode, hfits⟩ := Classical.not_imp.1 hfits
      rw [imm12Operand_of_imm12Verdict (.range v hv hmode hfits)]
      exact .range v hv hmode hfits
  · rw [not_exists] at h
    rw [imm12Operand_of_imm12Verdict (.form h)]
    exact .form h

/-- The IMMB stage answers a verdict (R87, R90, R92, R93). -/
theorem immBOperand_immBVerdict (mode : ImmMode) (i : OperandIndex) (t : Token) :
    ImmBVerdict mode i t (immBOperand mode i t) := by
  by_cases h : ∃ v, ImmediateToken t v
  · obtain ⟨v, hv⟩ := h
    by_cases hpass : mode = .strict → FitsB v ∧ v % 2 = 0
    · rw [immBOperand_of_immBVerdict (.pattern v hv hpass)]
      exact .pattern v hv hpass
    · obtain ⟨hmode, hfails⟩ := Classical.not_imp.1 hpass
      by_cases hfits : FitsB v
      · have hodd : v % 2 ≠ 0 := fun heven => hfails ⟨hfits, heven⟩
        rw [immBOperand_of_immBVerdict (.odd v hv hmode hfits hodd)]
        exact .odd v hv hmode hfits hodd
      · rw [immBOperand_of_immBVerdict (.range v hv hmode hfits)]
        exact .range v hv hmode hfits
  · rw [not_exists] at h
    rw [immBOperand_of_immBVerdict (.form h)]
    exact .form h

/-- What a raise says of operand token `t`, of kind `k` at index `i`: the index and the token, no count,
and the kind and sub-reason of that token's failure (R200, R203). -/
structure OperandRaise (mode : ImmMode) (k : OperandKind) (i : OperandIndex) (t : Token)
    (e : LineError) : Prop where
  operand : errorOperand e = i
  token : errorToken e = t
  count : errorCount e = 0
  cause : OperandCause mode t k (errorKind e) (errorSub e)

section
variable {mode : ImmMode} {i : OperandIndex} {t : Token} {e : LineError}

/-- A register verdict that is an error says why the token fails (R85). -/
theorem RegVerdict.operandRaise (h : RegVerdict i t (.error e)) : OperandRaise mode .reg i t e := by
  cases h with
  | range n hn hlt => exact ⟨rfl, rfl, rfl, .registerRange n hn hlt⟩
  | form hform => exact ⟨rfl, rfl, rfl, .registerSyntax hform⟩

/-- An IMM12 verdict that is an error says why the token fails (R87, R92). -/
theorem Imm12Verdict.operandRaise (h : Imm12Verdict mode i t (.error e)) :
    OperandRaise mode .imm12 i t e := by
  cases h with
  | range v hv hmode hfits => exact ⟨rfl, rfl, rfl, .range12 v hv hmode hfits⟩
  | form hform => exact ⟨rfl, rfl, rfl, .immediateSyntax .imm12 (by decide) hform⟩

/-- An IMMB verdict that is an error says why the token fails (R87, R92). -/
theorem ImmBVerdict.operandRaise (h : ImmBVerdict mode i t (.error e)) :
    OperandRaise mode .immB i t e := by
  cases h with
  | range v hv hmode hfits => exact ⟨rfl, rfl, rfl, .rangeB v hv hmode hfits⟩
  | odd v hv hmode hfits hodd => exact ⟨rfl, rfl, rfl, .oddB v hv hmode hfits hodd⟩
  | form hform => exact ⟨rfl, rfl, rfl, .immediateSyntax .immB (by decide) hform⟩

/-- An error is left as it is by what is done to a value. -/
theorem except_map_error_iff {α β : Type} {f : α → β} {a : Except LineError α} :
    a.map f = .error e ↔ a = .error e := by
  cases a <;> simp [Except.map]

/-- An operand that the table's loop rejects is rejected for that token's failure as one of its kind. -/
theorem resolveOperand_operandRaise {k : OperandKind} (h : resolveOperand mode k i t = .error e) :
    OperandRaise mode k i t e := by
  cases k with
  | reg =>
    rw [resolveOperand_reg, except_map_error_iff] at h
    exact RegVerdict.operandRaise (h ▸ regDecode_regVerdict i t)
  | imm12 =>
    rw [← except_map_error_iff (f := trunc 12), ← imm12Operand_eq_map] at h
    exact Imm12Verdict.operandRaise (h ▸ imm12Operand_imm12Verdict mode i t)
  | immB =>
    rw [← except_map_error_iff (f := trunc 13), ← immBOperand_eq_map] at h
    exact ImmBVerdict.operandRaise (h ▸ immBOperand_immBVerdict mode i t)

end

/-- Every row has three operand kinds (R79). -/
theorem row_kinds (x : Mnemonic) : ∃ k1 k2 k3, (row x).kinds = [k1, k2, k3] := by
  cases x <;> exact ⟨_, _, _, rfl⟩

/-- The error of three operands is what one of them raises, at its own index (R126). -/
theorem tableWord_error {mode : ImmMode} {x : Mnemonic} {t1 t2 t3 : Token} {e : LineError}
    (h : tableWord mode x [t1, t2, t3] = .error e) :
    ∃ (i : OperandIndex) (k : OperandKind) (t : Token), 1 ≤ i.val ∧
      [t1, t2, t3][i.val - 1]? = some t ∧ (row x).kinds[i.val - 1]? = some k ∧
      OperandRaise mode k i t e := by
  obtain ⟨k1, k2, k3, hk⟩ := row_kinds x
  rw [tableWord_eq_inOrder hk, inOrder_error] at h
  rw [hk]
  obtain h1 | ⟨-, -, h2⟩ | ⟨-, -, -, -, h3⟩ := h
  · exact ⟨1, k1, t1, by decide, rfl, rfl, resolveOperand_operandRaise h1⟩
  · exact ⟨2, k2, t2, by decide, rfl, rfl, resolveOperand_operandRaise h2⟩
  · exact ⟨3, k3, t3, by decide, rfl, rfl, resolveOperand_operandRaise h3⟩

/-! ### Why a line is rejected -/

/-- The front end skips a line, or dispatches on its first token (R79, R120). -/
theorem decodeLine_cases (line : Line) :
    decodeLine line = .skip ∨
      ∃ lead m sep ops, Splits line lead ((m, sep) :: ops) ∧
        ((∀ x : Mnemonic, m ≠ x.text) ∧ decodeLine line = .rejected m (.unsupportedMnemonic m) ∨
          ∃ x : Mnemonic, m = x.text ∧ decodeLine line = decodeOperands line x ops) := by
  by_cases hc : CommentLine line
  · exact .inl (decodeLine_of_commentLine hc)
  have hs := tokenize_splits line
  cases hparts : (tokenize line).parts with
  | nil => exact .inl (decodeLine_of_delimiters ((tokenize_parts_eq_nil_iff line).1 hparts))
  | cons p ops =>
    obtain ⟨m, sep⟩ := p
    rw [hparts] at hs
    refine .inr ⟨_, m, sep, ops, hs, ?_⟩
    by_cases hm : ∃ x : Mnemonic, m = x.text
    · obtain ⟨x, rfl⟩ := hm
      exact .inr ⟨x, rfl, decodeLine_of_mnemonic hc hs⟩
    · rw [not_exists] at hm
      exact .inl ⟨hm, decodeLine_of_unknown_mnemonic hc hs hm⟩

/-- The mnemonics of R84. -/
theorem needsStructure_iff (x : Mnemonic) : needsStructure x = true ↔ x = .lw ∨ x = .sw := by
  cases x <;> decide

/-- The operand tokens of a known mnemonic are rejected by their number, or by the absent structure, or
are those of an instruction (R124, R125). -/
theorem decodeOperands_cases (line : Line) (x : Mnemonic) (ops : List (Token × Separator)) :
    (ops.length ≠ 3 ∧ decodeOperands line x ops = .rejected x.text (.operandCount ops.length)) ∨
      ∃ p1 p2 p3, ops = [p1, p2, p3] ∧
        ((x = .lw ∨ x = .sw) ∧ ¬ HasStructure line p2.2 p3.2 ∧
            decodeOperands line x ops = .rejected x.text .structureAbsent ∨
          decodeOperands line x ops = .instr (x.instr p1.1 p2.1 p3.1)) := by
  by_cases hlen : ops.length = 3
  · obtain ⟨p1, p2, p3, rfl⟩ := List.length_eq_three.1 hlen
    refine .inr ⟨p1, p2, p3, rfl, ?_⟩
    rw [decodeOperands]
    split
    · next hcheck =>
      simp only [Bool.and_eq_true, Bool.not_eq_true', ← Bool.not_eq_true, structureOk_iff,
        needsStructure_iff] at hcheck
      exact .inl ⟨hcheck.1, hcheck.2, rfl⟩
    · exact .inr rfl
  · exact .inl ⟨hlen, decodeOperands_of_length_ne hlen⟩

/-- Resolved operands are answered with an error response exactly when they raise, and the record is the
one R203 builds from the raise. -/
theorem outcomeResponse_error_iff {s : State} {line : Line} {x : Mnemonic}
    {r : Except LineError Word} {d : Diagnostic} :
    outcomeResponse s line x r = .error d ↔
      ∃ e, r = .error e ∧ diagnosticOf e (trunc 32 (s.lineNo.toNat + 1)) line x.text = d := by
  cases r <;> simp [outcomeResponse, rejection]

/-- Settles O35: the branch of the front end that rejects the line, or the operand that raises, is the
cause, and the record is the one R203 builds from that raise. -/
theorem diagnosticRecordsTheError : Obligations.DiagnosticRecordsTheError := by
  intro s t line rest d h hs hlog
  obtain ⟨-, hr⟩ := answered_of_log h hs hlog
  obtain hskip | ⟨lead, m, sep, ops, hsplit, ⟨hm, hd⟩ | ⟨x, rfl, hd⟩⟩ := decodeLine_cases line
  · rw [hskip] at hr
    cases hr
  · rw [hd] at hr
    cases hr
    exact ⟨rfl, rfl, lead, sep, ops, hsplit, .inl ⟨hm, rfl, rfl, rfl, rfl, rfl⟩⟩
  · rw [hd] at hr
    obtain ⟨hlen, hops⟩ | ⟨p1, p2, p3, rfl, ⟨hx, hstr, hops⟩ | hops⟩ :=
      decodeOperands_cases line x ops
    · rw [hops] at hr
      cases hr
      exact ⟨rfl, rfl, lead, sep, ops, hsplit,
        .inr ⟨x, rfl, .inl ⟨hlen, rfl, rfl, rfl, rfl, rfl⟩⟩⟩
    · rw [hops] at hr
      cases hr
      exact ⟨rfl, rfl, lead, sep, _, hsplit,
        .inr ⟨x, rfl, .inr (.inl ⟨hx, ⟨p1, p2, p3, rfl, hstr⟩, rfl, rfl, rfl, rfl, rfl⟩)⟩⟩
    · rw [hops, decodedResponse, Mnemonic.instr_mnemonic, Mnemonic.instr_operands,
        outcomeResponse_error_iff] at hr
      obtain ⟨e, he, rfl⟩ := hr
      obtain ⟨i, k, tok, hi, htok, hk, rfl, rfl, hcount, hcause⟩ := tableWord_error he
      exact ⟨rfl, rfl, lead, sep, _, hsplit,
        .inr ⟨x, rfl, .inr (.inr ⟨rfl, hi, htok, hcount, k, hk, hcause⟩)⟩⟩

end Sys2Proof.Machine
end

section
/-!
PROOFS. Reset, and the operations before a Submit: what Reset sets and what it leaves (R230), the run
it begins (R233), and a change of the immediate policy in the middle of a run (R237).
-/
namespace Sys2Proof.Machine

/-! ### The sinks -/

/-- A recorded operation that returned no response leaves both sinks as they are (R31, R230). -/
theorem State.sinks_of_log_silent {s t : State} {op : HostOp} {ret : Returned}
    (h : t.log = { op := op, ret := ret } :: s.log) (hr : responseOf ret = none) :
    t.wordSink = s.wordSink ∧ t.diagnosticSink = s.diagnosticSink := by
  simp [State.wordSink, State.diagnosticSink, State.responses_of_log_silent h hr]

/-! ### A Submit after another operation -/

/-- A step that leaves a `Submit` of a line inside the interface next, and the step on that line, are
R27's update of the state between them with the response of R120. -/
theorem run_two_of_submit {s t : State} {line : Line} {rest : List HostOp} (hs : step s = .next t)
    (h : t.pending = .submit line :: rest) (hi : InInterface line) :
    run 2 s = .next (answered t line rest (encodeLine line t.immMode (t.lineNo + 1))) := by
  rw [run_succ_of_step hs, run_succ_of_step (stepRefinesEncode t line rest h hi), run_zero,
    trunc_succ_eq_nextLineNo]

/-- A diagnostic carries the line number that `Encode` was given (R120, R203). -/
theorem encodeLine_error_lineNo {line : Line} {mode : ImmMode} {ln : Word} {d : Diagnostic}
    (h : encodeLine line mode ln = .error d) : d.lineNo = ln := by
  unfold encodeLine at h
  split at h
  · cases h
  · split at h
    · cases h
    · split at h
      · cases h
      · cases h
        rfl

/-- With no error counted before a line, STATUS.ERR after it says whether the line gave one (R25,
R27). -/
theorem statusErr_answered_of_errCount_zero {s : State} (line : Line) (rest : List HostOp)
    (r : Response) (h : s.errCount = 0) : (answered s line rest r).statusErr = isError r := by
  cases r with
  | word _ => simp [State.statusErr, answered_errCount, isError, h]
  | skip => simp [State.statusErr, answered_errCount, isError, h]
  | error d => exact statusErr_answered_error s line rest d

/-! ### The statements -/

/-- Settles O43: the state between the two steps is Reset's, whose policy is STRICT and whose
counters are 0. -/
theorem resetBeginsANewRun : Obligations.ResetBeginsANewRun := by
  intro s line rest h hi
  exact ⟨_, _, run_two_of_submit (step_reset h) rfl hi, trunc_succ_eq_nextLineNo 0,
    statusErr_answered_of_errCount_zero line rest _ rfl, rfl,
    fun _ => encodeLine_error_lineNo, rfl⟩

/-- Settles O44: the state between the two steps is the one before them with the written policy, and
the line is answered from there. -/
theorem modeWriteActsOnTheNextSubmit : Obligations.ModeWriteActsOnTheNextSubmit := by
  intro s v line rest h hi
  have hrun := run_two_of_submit (step_writeReg_inside h (by decide)) rfl hi
  exact ⟨_, rfl, hrun⟩

/-- Settles O42: Reset's record holds no response, so the sinks stay; the launch state computes. -/
theorem resetSetsTheFourElements : Obligations.ResetSetsTheFourElements := by
  refine ⟨fun s rest h => ?_, rfl, rfl, rfl, rfl, rfl, rfl⟩
  exact ⟨_, step_reset h, rfl, rfl, rfl, rfl, rfl,
    and_assoc.1 ⟨State.sinks_of_log_silent rfl rfl, rfl⟩⟩

end Sys2Proof.Machine
end

section
/-!
PROOFS. The packer's derived facts: the field masks (R77), the fields of a packed word (R94), the value
of a pattern (R91), and the rows that the emitted words lie in (R97).
-/
namespace Sys2Proof.Machine

/-! ### The fields of a packed word -/

/-- Settles O6: the packers of all-ones fields and the sums of the masks compute. -/
theorem fieldMasksPartitionTheWord : Obligations.FieldMasksPartitionTheWord := by
  unfold Obligations.FieldMasksPartitionTheWord
  decide

/-- The slice at a field's place is the field (R78, R94). -/
theorem field_slice_self {width : Nat} (b : BitVec width) {lsb : Nat} (h : width + lsb ≤ 32) :
    (field b.toNat width lsb).extractLsb' lsb width = b := by
  apply BitVec.eq_of_getLsbD_eq
  intro j hj
  have hbit : lsb + j < 32 := by omega
  simp [field_eq_ofNat, hj, hbit]

/-- A slice beside a field's place is 0 (R78). -/
theorem field_slice_beside (v : Int) {width lsb lo len : Nat} (hlen : lo + len ≤ 32)
    (h : lo + len ≤ lsb ∨ lsb + width ≤ lo) : (field v width lsb).extractLsb' lo len = 0#len := by
  apply BitVec.eq_of_getLsbD_eq
  intro j hj
  have hbit : (field v width lsb).getLsbD (lo + j) = false := by
    rw [← Bool.not_eq_true, field_getLsbD v (by omega)]
    omega
  simp [hbit]

/-- Settles O7: of the fields that a word is the OR of, a slice at one's place reads that one alone, and
the slices of a split immediate join again. -/
theorem formatFieldsReadBack : Obligations.FormatFieldsReadBack := by
  refine ⟨?_, ?_, ?_, ?_⟩
  · rintro f7 rs2 rs1 f3 rd op _ rfl
    simp (disch := omega) only [BitVec.extractLsb, encodeR, BitVec.extractLsb'_or,
      field_slice_self, field_slice_beside, BitVec.or_zero, BitVec.zero_or, and_self]
  · rintro b rs1 f3 rd op _ rfl
    simp (disch := omega) only [BitVec.extractLsb, encodeI, BitVec.extractLsb'_or,
      field_slice_self, field_slice_beside, BitVec.or_zero, BitVec.zero_or, and_self]
  · rintro b rs2 rs1 f3 op _ rfl
    simp (disch := omega) only [BitVec.extractLsb, encodeS, BitVec.extractLsb'_or,
      field_slice_self, field_slice_beside, BitVec.or_zero, BitVec.zero_or, and_self,
      BitVec.extractLsb'_append_extractLsb'_eq_extractLsb', BitVec.extractLsb'_eq_self]
  · rintro b rs2 rs1 f3 op _ rfl
    simp (disch := omega) only [BitVec.extractLsb, encodeB, BitVec.extractLsb'_or,
      field_slice_self, field_slice_beside, BitVec.or_zero, BitVec.zero_or, and_self,
      BitVec.extractLsb'_append_extractLsb'_eq_extractLsb']

/-! ### The value of a pattern -/

/-- An integer in the strict range of IMM12 is the value of its pattern (R91). -/
theorem sext_trunc12 {v : Int} (h : Fits12 v) : sext (trunc 12 v) = v :=
  BitVec.toInt_ofInt_eq_self (by decide) h.1 (Int.lt_add_one_of_le h.2)

/-- An integer in the strict range of IMMB is the value of its pattern (R91). -/
theorem sext_trunc13 {v : Int} (h : FitsB v) : sext (trunc 13 v) = v :=
  BitVec.toInt_ofInt_eq_self (by decide) h.1 (Int.lt_add_one_of_le h.2)

/-- Any integer is the value of its pattern modulo the field's size (R91). -/
theorem sext_trunc_emod (n : Nat) (v : Int) : (sext (trunc n v) - v) % 2 ^ n = 0 := by
  rw [sext, BitVec.toInt_ofInt]
  exact Int.emod_eq_zero_of_dvd (by exact_mod_cast Int.dvd_bmod_sub_self (x := v) (m := 2 ^ n))

/-- A displacement pattern is worth its upper bits doubled and its bit 0. -/
theorem sext_eq_upper (b : BitVec 13) :
    sext b = 2 * sext (b.extractLsb 12 1) + (b.extractLsb' 0 1).toNat := by
  have hb : b.extractLsb' 1 12 ++ b.extractLsb' 0 1 = b := BitVec.extractLsb'_append_extractLsb'
  conv_lhs => rw [← hb]
  exact BitVec.toInt_append

/-- Bit 0 of an integer's pattern is its parity. -/
theorem trunc13_bit0 (v : Int) : (((trunc 13 v).extractLsb' 0 1).toNat : Int) = v % 2 := by
  rw [extractLsb'_trunc 13 v 0 1 (by decide), trunc_toNat, pow_zero, Int.ediv_one, pow_one]

/-- The displacement read from a packed word is its pattern's value without bit 0 (R91, R94). -/
theorem immB_encodeB (b : BitVec 13) (rs2 rs1 : BitVec 5) (f3 : BitVec 3) (op : BitVec 7) :
    immB (encodeB b rs2 rs1 f3 op) = sext b - (b.extractLsb' 0 1).toNat := by
  obtain ⟨-, -, -, hB⟩ := formatFieldsReadBack
  obtain ⟨himm, -⟩ := hB b rs2 rs1 f3 op _ rfl
  have hupper : immB (encodeB b rs2 rs1 f3 op) = 2 * sext (b.extractLsb 12 1) :=
    (congrArg BitVec.toInt himm).trans BitVec.toInt_append_zero
  rw [hupper, sext_eq_upper b, Int.add_sub_cancel]

/-- Settles O18, from the patterns' values; the B format drops bit 0, which is the parity. -/
theorem patternsKeepTheirValue : Obligations.PatternsKeepTheirValue :=
  ⟨fun _ => sext_trunc12, fun _ => sext_trunc13, sext_trunc_emod 12, sext_trunc_emod 13,
    fun v rs2 rs1 f3 op => by rw [immB_encodeB, trunc13_bit0]⟩

/-! ### The rows of the emitted words -/

/-- A row's mask has no bit at the row's places. -/
theorem row_mask_places (x : Mnemonic) :
    ∀ p ∈ (row x).places, ∀ j < 32, p.lsb ≤ j → j < p.lsb + p.width →
      (row x).mask.getLsbD j = false := by
  cases x <;> decide

/-- A row's match word lies under its mask. -/
theorem row_fixed_and_mask (x : Mnemonic) : (row x).fixed &&& (row x).mask = (row x).fixed := by
  cases x <;> decide

/-- A slice that the table places has no bit under the row's mask. -/
theorem bits_and_mask {x : Mnemonic} {p : Place} (hp : p ∈ (row x).places) (a b c : Int) :
    p.bits a b c &&& (row x).mask = 0#32 := by
  rw [bits_eq_field p a b c (row_places_fit x p hp)]
  apply BitVec.eq_of_getLsbD_eq
  intro j hj
  rw [BitVec.getLsbD_and]
  cases hbit : (field (![a, b, c] p.operand / 2 ^ p.lo) p.width p.lsb).getLsbD j with
  | false => simp
  | true =>
    obtain ⟨hlo, hhi, -⟩ := (field_getLsbD _ hj).1 hbit
    simp [row_mask_places x p hp j hj hlo hhi]

/-- Placing slices at some of a row's places changes no bit under the row's mask. -/
theorem foldl_bits_and_mask {x : Mnemonic} (a b c : Int) (ps : List Place) (w : Word)
    (hps : ps ⊆ (row x).places) :
    ps.foldl (fun w p => w ||| p.bits a b c) w &&& (row x).mask = w &&& (row x).mask := by
  induction ps generalizing w with
  | nil => rfl
  | cons p ps ih =>
    obtain ⟨hp, hps⟩ := List.cons_subset.1 hps
    rw [List.foldl_cons, ih _ hps, BitVec.and_or_distrib_right, bits_and_mask hp, BitVec.or_zero]

/-- Whatever integers the table packs, the word lies in the row (R97). -/
theorem pack_and_mask (x : Mnemonic) (a b c : Int) :
    (row x).pack a b c &&& (row x).mask = (row x).fixed :=
  (foldl_bits_and_mask a b c _ _ (List.Subset.refl _)).trans (row_fixed_and_mask x)

/-- The word of an instruction's resolved operands lies in the instruction's row. -/
theorem tableWord_and_mask {mode : ImmMode} {x : Mnemonic} {ts : List Token} {w : Word}
    (h : tableWord mode x ts = .ok w) : w &&& (row x).mask = (row x).fixed := by
  rw [tableWord] at h
  cases hvs : resolveOperands mode ((row x).kinds.zip ([1, 2, 3].zip ts)) with
  | error e => simp [hvs, Except.map] at h
  | ok vs =>
    rw [hvs] at h
    cases h
    exact pack_and_mask x _ _ _

/-- Resolved operands are answered with a word exactly when they pack into it. -/
theorem outcomeResponse_word_iff {s : State} {line : Line} {x : Mnemonic}
    {r : Except LineError Word} {w : Word} : outcomeResponse s line x r = .word w ↔ r = .ok w := by
  cases r <;> simp [outcomeResponse, rejection]

/-- A word that answers a line lies in a row. -/
theorem decodedResponse_word {s : State} {line : Line} {dl : DecodedLine} {w : Word}
    (h : decodedResponse s line dl = .word w) :
    ∃ x : Mnemonic, w &&& (row x).mask = (row x).fixed := by
  cases dl with
  | skip => cases h
  | rejected m e => cases h
  | instr i => exact ⟨i.mnemonic, tableWord_and_mask (outcomeResponse_word_iff.1 h)⟩

/-- A step that delivers a word takes a `Submit` and answers it with that word (R31). -/
theorem submit_of_wordSink {s t : State} {w : Word} (hs : step s = .next t)
    (hsink : t.wordSink = s.wordSink ++ [w]) :
    ∃ line rest, s.pending = .submit line :: rest ∧
      t.log = { op := .submit line, ret := .response (.word w) } :: s.log := by
  cases h : s.pending with
  | nil =>
    rw [step_idle h] at hs
    cases hs
    simp at hsink
  | cons op rest =>
    by_cases hop : ∃ line, op = .submit line
    · obtain ⟨line, rfl⟩ := hop
      obtain ⟨r, hlog⟩ := log_of_step_submit h hs
      rw [State.wordSink_of_responses (State.responses_of_log hlog), List.append_cancel_left_eq]
        at hsink
      cases r with
      | word u =>
        cases hsink
        exact ⟨line, rest, rfl, hlog⟩
      | skip => cases hsink
      | error d => cases hsink
    · obtain ⟨ret, hlog, hret⟩ := log_of_step_not_submit h hs (not_exists.1 hop)
      obtain ⟨hsame, -⟩ := State.sinks_of_log_silent hlog hret
      simp [hsame] at hsink

/-- Settles O13: an instruction's word is packed by its row, and a word in the sink answers a line. -/
theorem emittedWordsLieInTheirRow : Obligations.EmittedWordsLieInTheirRow := by
  refine ⟨fun i s t line rest w h hs hlog => ?_, fun s t w hs hsink => ?_⟩
  · rw [exec_eq_respond, respond_answered _ _ h] at hs
    cases hs
    have hr : outcomeResponse s line i.mnemonic (tableWord s.immMode i.mnemonic i.operands) =
        .word w := by simpa [answered] using hlog
    exact tableWord_and_mask (outcomeResponse_word_iff.1 hr)
  · obtain ⟨line, rest, h, hlog⟩ := submit_of_wordSink hs hsink
    obtain ⟨-, hr⟩ := answered_of_log h hs hlog
    exact decodedResponse_word hr

end Sys2Proof.Machine
end

section
/-!
PROOFS. Steps, runs and the record: what a step records of each operation, the counters (R26, R27), the
explained record (R128, R129), runs to their end (R239), refusals (R207), the idle block (R217), the
frame of the instructions (R205), and the front end on the tokens of an instruction (R83).
-/
namespace Sys2Proof.Machine

/-! ### What a step records -/

/-- A step that takes an operation does to the registers, and records as its return, what the rules say
of that operation from the registers alone (R24 to R29, R120). -/
theorem step_event {s t : State} {op : HostOp} {rest : List HostOp} (h : s.pending = op :: rest)
    (hs : step s = .next t) :
    t.pending = rest ∧ t.regs = s.regs.after op ∧
      t.log = { op := op, ret := s.regs.returns op } :: s.log := by
  have hi := opInInterface_of_step h hs
  cases op with
  | reset =>
    rw [step_reset h] at hs
    cases hs
    exact ⟨rfl, rfl, rfl⟩
  | writeReg i v =>
    rw [step_writeReg_inside h hi] at hs
    cases hs
    refine ⟨rfl, ?_, rfl⟩
    by_cases h0 : i = 0 <;> simp [State.regs, Regs.after, h0]
  | readReg i =>
    rw [step_readReg_inside h hi] at hs
    cases hs
    exact ⟨rfl, rfl, rfl⟩
  | submit line =>
    rw [stepRefinesEncode s line rest h hi, trunc_succ_eq_nextLineNo] at hs
    cases hs
    refine ⟨rfl, ?_, rfl⟩
    rw [State.regs, answered, trunc_succ_eq_nextLineNo]
    rfl

/-! ### The counters -/


/-- One more line modulo 2^32 (R27). -/
theorem lineNo_succ_toNat {n : Word} {k : Nat} (h : n.toNat = k % 2 ^ 32) :
    (n + 1).toNat = (k + 1) % 2 ^ 32 := by
  rw [BitVec.toNat_add, h]
  exact Nat.mod_add_mod k (2 ^ 32) 1

/-- One more error, saturating (R27). -/
theorem nextErrCount_toNat_of_min {n : Word} {k : Nat} (h : n.toNat = min k (2 ^ 32 - 1)) :
    (nextErrCount n).toNat = min (k + 1) (2 ^ 32 - 1) := by
  rw [nextErrCount_toNat, h]
  omega

/-- Settles O49: each operation counts in the registers what it counts in the record. -/
theorem countersCountSinceReset : Obligations.CountersCountSinceReset := by
  rintro s t ⟨hline, herr⟩ hs
  cases h : s.pending with
  | nil =>
    rw [step_idle h] at hs
    cases hs
    exact ⟨hline, herr⟩
  | cons op rest =>
    obtain ⟨-, hregs, hlog⟩ := step_event h hs
    rw [CountersAgree, hlog, show t.lineNo = _ from congrArg Regs.lineNo hregs,
      show t.errCount = _ from congrArg Regs.errCount hregs]
    cases op with
    | reset => exact ⟨rfl, rfl⟩
    | writeReg i v =>
      by_cases h0 : i = 0 <;>
        simpa [Regs.after, h0, State.regs, linesSinceReset, errorsSinceReset] using ⟨hline, herr⟩
    | readReg i => exact ⟨hline, herr⟩
    | submit line =>
      refine ⟨lineNo_succ_toNat hline, ?_⟩
      cases he : isError (encodeLine line s.immMode (s.lineNo + 1)) with
      | true =>
        simp only [Regs.after, Regs.returns, State.regs, errorsSinceReset, returnedError, he]
        exact nextErrCount_toNat_of_min herr
      | false =>
        simp only [Regs.after, Regs.returns, State.regs, errorsSinceReset, returnedError, he]
        exact herr

/-- Settles O50: both counts of the empty record are 0. -/
theorem countersAgreeAtReset : Obligations.CountersAgreeAtReset := ⟨rfl, rfl⟩

/-! ### The explained record -/

/-- Settles O51: a step adds one entry, whose return and whose effect are the rules' from the registers
that the older entries lead to. -/
theorem recordStaysExplained : Obligations.RecordStaysExplained := by
  rintro s t ⟨hregs, hlog⟩ hs
  cases h : s.pending with
  | nil =>
    rw [step_idle h] at hs
    cases hs
    exact ⟨hregs, hlog⟩
  | cons op rest =>
    obtain ⟨-, hregs', hlog'⟩ := step_event h hs
    rw [RecordExplains, hregs', hlog', hregs]
    exact ⟨rfl, opInInterface_of_step h hs, rfl, hlog⟩

/-- Settles O52: the empty record leads to the reset values. -/
theorem recordExplainedAtReset : Obligations.RecordExplainedAtReset := ⟨rfl, trivial⟩

/-! ### Refusals and runs -/

/-- A step on an operation inside the interface answers a next state (R29, R30). -/
theorem step_of_opInInterface {s : State} {op : HostOp} {rest : List HostOp}
    (h : s.pending = op :: rest) (hi : OpInInterface op) : ∃ t, step s = .next t := by
  cases op with
  | reset => exact ⟨_, step_reset h⟩
  | writeReg i v => exact ⟨_, step_writeReg_inside h hi⟩
  | readReg i => exact ⟨_, step_readReg_inside h hi⟩
  | submit line => exact ⟨_, stepRefinesEncode s line rest h hi⟩

/-- A run that meets a refused step stays refused with that refusal, however many steps are asked
for. -/
theorem run_refused {s t : State} {q : Refusal} {j : Nat} (k : Nat) (hrun : run j s = .next t)
    (hq : step t = .refused q) : run (j + 1 + k) s = .refused q := by
  induction j generalizing s with
  | zero =>
    cases hrun
    rw [Nat.zero_add, Nat.add_comm, run_succ, hq]
  | succ j ih =>
    obtain ⟨u, hs, hrun⟩ := run_succ_next hrun
    rw [show j + 1 + 1 + k = j + 1 + k + 1 by omega, run_succ_of_step hs, ih hrun]

/-- Settles O46: a step answers a next state exactly on an operation inside the interface, and it never
faults. -/
theorem refusalIsKeptForTheRun : Obligations.RefusalIsKeptForTheRun := by
  refine ⟨fun s op rest h => ⟨?_, fun hi => ?_⟩, fun s t j k q => run_refused k⟩
  · rintro ⟨q, hq⟩ hi
    obtain ⟨t, ht⟩ := step_of_opInInterface h hi
    rw [ht] at hq
    cases hq
  · cases hs : step s with
    | next t => exact absurd (opInInterface_of_step h hs) hi
    | fault r => cases r
    | refused q => exact ⟨q, rfl⟩

/-- Settles O54: by induction on the pending operations, each step takes the first and records it. -/
theorem runsCompleteInOrder : Obligations.RunsCompleteInOrder := by
  intro s hall
  induction hp : s.pending generalizing s with
  | nil => exact ⟨s, [], rfl, hp, rfl, rfl⟩
  | cons op rest ih =>
    rw [hp, List.forall_mem_cons] at hall
    obtain ⟨u, hs⟩ := step_of_opInInterface hp hall.1
    obtain ⟨hrest, -, hlog⟩ := step_event hp hs
    obtain ⟨t, events, hrun, hend, hlog', horder⟩ := ih u (hrest ▸ hall.2) hrest
    refine ⟨t, events ++ [{ op := op, ret := s.regs.returns op }], ?_, hend, ?_, ?_⟩
    · rw [List.length_cons, run_succ_of_step hs, hrun]
    · rw [hlog', hlog, List.append_assoc, List.singleton_append]
    · rw [List.map_append, List.reverse_append, horder]
      rfl

/-- Settles O47, by induction on the number of steps. -/
theorem idleKeepsTheState : Obligations.IdleKeepsTheState := by
  intro s h k
  induction k with
  | zero => rfl
  | succ k ih => rw [run_succ_of_step (step_idle h), ih]

/-! ### Registers 2 and 3 -/

/-- Settles O41, from the step of a read and of a write on either side of index 3. -/
theorem counterRegistersAreReadOnly : Obligations.CounterRegistersAreReadOnly := by
  refine ⟨fun s rest h => step_readReg_inside h (by decide),
    fun s rest h => step_readReg_inside h (by decide), fun s i v rest hi h => ?_,
    fun s i v rest hi => ⟨fun h => step_writeReg_outside h hi, fun h => step_readReg_outside h hi⟩⟩
  obtain rfl | rfl := hi
  · exact step_writeReg_inside h (by decide)
  · exact step_writeReg_inside h (by decide)

/-! ### The frame of an instruction -/

/-- Settles O31: a meaning ends in R27's update with a word, or with the rejection of a raise. -/
theorem instructionFrame : Obligations.InstructionFrame := by
  intro i s t line rest h hs
  obtain ⟨r, hr⟩ := exec_answered i h
  rw [hr] at hs
  cases hs
  refine ⟨rfl, trunc_succ_eq_nextLineNo s.lineNo, rfl, _, rfl, ?_⟩
  cases r with
  | ok w => exact .inl ⟨⟨w, rfl⟩, rfl⟩
  | error e => exact .inr ⟨⟨e, rfl⟩, nextErrCount_toNat s.errCount⟩

/-! ### The response to a line -/

/-- The line number that `Encode` is given is in the diagnostic alone (R128, R203). -/
theorem encodeLine_lineNo (line : Line) (mode : ImmMode) (n1 n2 : Word) :
    encodeLine line mode n1 = encodeLine line mode n2 ∨
      ∃ d1 d2, encodeLine line mode n1 = .error d1 ∧ encodeLine line mode n2 = .error d2 ∧
        { d1 with lineNo := d2.lineNo } = d2 := by
  unfold encodeLine
  split
  · exact .inl rfl
  · split
    · exact .inl rfl
    · split
      · exact .inl rfl
      · exact .inr ⟨_, _, rfl, rfl, rfl⟩

/-- Settles O34: both steps answer `Encode` of the line under the one policy. -/
theorem responsesAreLineIndependent : Obligations.ResponsesAreLineIndependent := by
  intro s1 s2 line rest1 rest2 h1 h2 hi hmode
  refine ⟨_, _, _, _, stepRefinesEncode s1 line rest1 h1 hi, stepRefinesEncode s2 line rest2 h2 hi,
    rfl, rfl, ?_⟩
  rw [hmode]
  exact encodeLine_lineNo line s2.immMode _ _

/-! ### The instruction of a line -/

/-- Settles O23: the mnemonic's operand checks pass. -/
theorem sameTokensSameInstruction : Obligations.SameTokensSameInstruction := by
  intro line lead sep1 sep2 sep3 sep4 x t1 t2 t3 hc hs hstr
  have hcheck : ¬ (needsStructure x && !structureOk line sep3 sep4) = true := by
    simpa [structureOk_iff, needsStructure_iff] using hstr
  rw [decodeLine_of_mnemonic hc hs, decodeOperands, if_neg hcheck]

/-- Settles O32: the transaction on a line goes to the meaning of the instruction that the front end
reads. -/
theorem stepRunsTheDecodedInstruction : Obligations.StepRunsTheDecodedInstruction := by
  intro s line rest i h hi hd
  rw [step_submit h hi, transact, hd]

end Sys2Proof.Machine
end

section
/-!
PROOFS. The words of the seven rows and the operand tuples that strict mode accepts, one for one: the
fields of a word in a row are the values of such a tuple and pack into the word again, and a packed
tuple is read back from its word's fields (R94, R97).
-/
namespace Sys2Proof
open Machine

/-! ### Values and tuples -/

/-- The values that strict mode accepts for an operand kind (R85, R88, R92). -/
def OperandKind.Admits : OperandKind → Int → Prop
  | .reg, v => 0 ≤ v ∧ v ≤ 31
  | .imm12, v => Fits12 v
  | .immB, v => FitsB v ∧ v % 2 = 0

/-- The operand tuples that strict mode accepts for a mnemonic. -/
def Mnemonic.Admits (x : Mnemonic) (v : Int × Int × Int) : Prop :=
  List.Forall₂ OperandKind.Admits (row x).kinds [v.1, v.2.1, v.2.2]

/-- The word that the table packs for a mnemonic and an operand tuple. -/
def Mnemonic.packed (x : Mnemonic) (v : Int × Int × Int) : Word := (row x).pack v.1 v.2.1 v.2.2

/-- The operand tuple in the fields of a word, read as a word of a mnemonic's row (R94). -/
def wordValues (w : Word) : Mnemonic → Int × Int × Int
  | .lw => ((w.extractLsb' 7 5).toNat, immI w, (w.extractLsb' 15 5).toNat)
  | .sw => ((w.extractLsb' 20 5).toNat, immS w, (w.extractLsb' 15 5).toNat)
  | .add | .xor | .sll =>
    ((w.extractLsb' 7 5).toNat, (w.extractLsb' 15 5).toNat, (w.extractLsb' 20 5).toNat)
  | .addi => ((w.extractLsb' 7 5).toNat, (w.extractLsb' 15 5).toNat, immI w)
  | .bne => ((w.extractLsb' 15 5).toNat, (w.extractLsb' 20 5).toNat, immB w)

/-- The admitted register values are the register indices. -/
theorem admits_reg_iff {v : Int} : OperandKind.reg.Admits v ↔ ∃ r : BitVec 5, v = r.toNat := by
  constructor
  · rintro ⟨h0, h31⟩
    refine ⟨trunc 5 v, ?_⟩
    rw [trunc_toNat]
    omega
  · rintro ⟨r, rfl⟩
    exact ⟨by omega, by omega⟩

/-- Every signed 12-bit pattern is worth an admitted immediate. -/
theorem admits_sext12 (b : BitVec 12) : OperandKind.imm12.Admits (sext b) :=
  ⟨BitVec.le_toInt b, Int.le_of_lt_add_one BitVec.toInt_lt⟩

/-- Every displacement read from a word is admitted: it fits, and its bit 0 is 0. -/
theorem admits_immB (w : Word) : OperandKind.immB.Admits (immB w) := by
  have heven : immB w = 2 ^ 1 * _ := BitVec.toInt_append_zero
  exact ⟨⟨BitVec.le_toInt _, Int.le_of_lt_add_one BitVec.toInt_lt⟩, by omega⟩

/-- The fields of any word hold admitted values. -/
theorem wordValues_admits (w : Word) (x : Mnemonic) : x.Admits (wordValues w x) := by
  have hreg (r : BitVec 5) : OperandKind.reg.Admits r.toNat := admits_reg_iff.2 ⟨r, rfl⟩
  cases x with
  | lw => exact .cons (hreg _) (.cons (admits_sext12 _) (.cons (hreg _) .nil))
  | sw => exact .cons (hreg _) (.cons (admits_sext12 _) (.cons (hreg _) .nil))
  | add => exact .cons (hreg _) (.cons (hreg _) (.cons (hreg _) .nil))
  | xor => exact .cons (hreg _) (.cons (hreg _) (.cons (hreg _) .nil))
  | addi => exact .cons (hreg _) (.cons (hreg _) (.cons (admits_sext12 _) .nil))
  | sll => exact .cons (hreg _) (.cons (hreg _) (.cons (hreg _) .nil))
  | bne => exact .cons (hreg _) (.cons (hreg _) (.cons (admits_immB w) .nil))

/-! ### From a word to its tuple and back -/

/-- A slice under a row's mask is the match word's, for a word in the row. -/
theorem row_slice {x : Mnemonic} {w : Word} {lo len : Nat}
    (hw : w &&& (row x).mask = (row x).fixed)
    (hmask : (row x).mask.extractLsb' lo len = BitVec.allOnes len) :
    w.extractLsb' lo len = (row x).fixed.extractLsb' lo len := by
  rw [← hw, BitVec.extractLsb'_and, hmask, BitVec.and_allOnes]

/-- A word in a row has the row's opcode. -/
theorem row_opcode {x : Mnemonic} {w : Word} (hw : w &&& (row x).mask = (row x).fixed) :
    w.extractLsb' 0 7 = opcodeOf x :=
  (row_slice hw (by cases x <;> decide)).trans (by cases x <;> decide)

/-- A word in a row has the row's funct3. -/
theorem row_funct3 {x : Mnemonic} {w : Word} (hw : w &&& (row x).mask = (row x).fixed) :
    w.extractLsb' 12 3 = funct3Of x :=
  (row_slice hw (by cases x <;> decide)).trans (by cases x <;> decide)

/-- No word lies in two rows: the opcode and funct3 tell the mnemonics apart (R79). -/
theorem row_unique {x y : Mnemonic} {w : Word} (hx : w &&& (row x).mask = (row x).fixed)
    (hy : w &&& (row y).mask = (row y).fixed) : x = y := by
  have hcode : (opcodeOf x, funct3Of x) = (opcodeOf y, funct3Of y) := by
    rw [← row_opcode hx, ← row_funct3 hx, row_opcode hy, row_funct3 hy]
  revert hcode
  cases x <;> cases y <;> decide

/-- A word is the R word of its fields. -/
theorem encodeR_fields (w : Word) :
    encodeR (w.extractLsb' 25 7) (w.extractLsb' 20 5) (w.extractLsb' 15 5) (w.extractLsb' 12 3)
      (w.extractLsb' 7 5) (w.extractLsb' 0 7) = w := by
  rw [rFormatLayout]
  repeat rw [BitVec.extractLsb'_append_extractLsb'_eq_extractLsb' (by decide)]
  exact BitVec.extractLsb'_eq_self

/-- A word is the I word of its fields. -/
theorem encodeI_fields (w : Word) :
    encodeI (w.extractLsb' 20 12) (w.extractLsb' 15 5) (w.extractLsb' 12 3) (w.extractLsb' 7 5)
      (w.extractLsb' 0 7) = w := by
  rw [iFormatLayout]
  repeat rw [BitVec.extractLsb'_append_extractLsb'_eq_extractLsb' (by decide)]
  exact BitVec.extractLsb'_eq_self

/-- A word is the S word of its fields, the offset joined from its two pieces. -/
theorem encodeS_fields (w : Word) :
    encodeS (w.extractLsb' 25 7 ++ w.extractLsb' 7 5) (w.extractLsb' 20 5) (w.extractLsb' 15 5)
      (w.extractLsb' 12 3) (w.extractLsb' 0 7) = w := by
  have hhi : (w.extractLsb' 25 7 ++ w.extractLsb' 7 5).extractLsb 11 5 = w.extractLsb' 25 7 :=
    BitVec.extractLsb'_append_eq_left
  have hlo : (w.extractLsb' 25 7 ++ w.extractLsb' 7 5).extractLsb 4 0 = w.extractLsb' 7 5 :=
    BitVec.extractLsb'_append_eq_right
  rw [sFormatLayout, hhi, hlo]
  repeat rw [BitVec.extractLsb'_append_extractLsb'_eq_extractLsb' (by decide)]
  exact BitVec.extractLsb'_eq_self

/-- The four pieces of a displacement are its slices (R76). -/
theorem displacement_slices {p : BitVec 13} (a b : BitVec 1) (c : BitVec 6) (d : BitVec 4)
    (h : a ++ b ++ c ++ d ++ 0#1 = p) :
    p.extractLsb 12 12 = a ∧ p.extractLsb 11 11 = b ∧ p.extractLsb 10 5 = c ∧
      p.extractLsb 4 1 = d := by
  have past0 {lo len : Nat} (hlo : 1 ≤ lo) :
      p.extractLsb' lo len = (a ++ b ++ c ++ d).extractLsb' (lo - 1) len :=
    h ▸ BitVec.extractLsb'_append_eq_of_le hlo
  have pastD {lo len : Nat} (hlo : 5 ≤ lo) :
      p.extractLsb' lo len = (a ++ b ++ c).extractLsb' (lo - 1 - 4) len :=
    (past0 (by omega)).trans (BitVec.extractLsb'_append_eq_of_le (by omega))
  have pastC {lo len : Nat} (hlo : 11 ≤ lo) :
      p.extractLsb' lo len = (a ++ b).extractLsb' (lo - 1 - 4 - 6) len :=
    (pastD (by omega)).trans (BitVec.extractLsb'_append_eq_of_le (by omega))
  exact ⟨(pastC (by decide)).trans BitVec.extractLsb'_append_eq_left,
    (pastC (by decide)).trans BitVec.extractLsb'_append_eq_right,
    (pastD (by decide)).trans BitVec.extractLsb'_append_eq_right,
    (past0 (by decide)).trans BitVec.extractLsb'_append_eq_right⟩

/-- A word is the B word of its fields, the displacement joined from its four pieces and a 0. -/
theorem encodeB_fields {w : Word} {p : BitVec 13}
    (h : w.extractLsb' 31 1 ++ w.extractLsb' 7 1 ++ w.extractLsb' 25 6 ++ w.extractLsb' 8 4 ++ 0#1
      = p) :
    encodeB p (w.extractLsb' 20 5) (w.extractLsb' 15 5) (w.extractLsb' 12 3) (w.extractLsb' 0 7)
      = w := by
  obtain ⟨hlayout, -⟩ := bFormatLayout
  obtain ⟨h12, h11, h10, h4⟩ := displacement_slices _ _ _ _ h
  rw [hlayout, h12, h11, h10, h4]
  repeat rw [BitVec.extractLsb'_append_extractLsb'_eq_extractLsb' (by decide)]
  exact BitVec.extractLsb'_eq_self

/-- The fields of a register row's word pack into it (R73); its funct7 is under the mask. -/
theorem packed_wordValues_regRegReg {x : Mnemonic} {w : Word}
    (hplaces : (row x).places = [⟨2, 0, 5, 20⟩, ⟨1, 0, 5, 15⟩, ⟨0, 0, 5, 7⟩])
    (hw : w &&& (row x).mask = (row x).fixed) (hf7 : w.extractLsb' 25 7 = funct7R) :
    (row x).pack (w.extractLsb' 7 5).toNat (w.extractLsb' 15 5).toNat (w.extractLsb' 20 5).toNat
      = w := by
  rw [pack_regRegReg hplaces, ← row_opcode hw, ← row_funct3 hw, ← hf7, encodeR_fields]

/-- The fields of a word in a row pack into the word (R94). -/
theorem packed_wordValues {x : Mnemonic} {w : Word} (hw : w &&& (row x).mask = (row x).fixed) :
    x.packed (wordValues w x) = w := by
  cases x with
  | lw =>
    rw [Mnemonic.packed, wordValues, pack_lw, ← row_opcode hw, ← row_funct3 hw, immI,
      show trunc 12 (sext _) = _ from BitVec.ofInt_toInt, encodeI_fields]
  | sw =>
    rw [Mnemonic.packed, wordValues, pack_sw, ← row_opcode hw, ← row_funct3 hw, immS,
      show trunc 12 (sext _) = _ from BitVec.ofInt_toInt, encodeS_fields]
  | add => exact packed_wordValues_regRegReg rfl hw (row_slice hw (by decide))
  | xor => exact packed_wordValues_regRegReg rfl hw (row_slice hw (by decide))
  | addi =>
    rw [Mnemonic.packed, wordValues, pack_addi, ← row_opcode hw, ← row_funct3 hw, immI,
      show trunc 12 (sext _) = _ from BitVec.ofInt_toInt, encodeI_fields]
  | sll => exact packed_wordValues_regRegReg rfl hw (row_slice hw (by decide))
  | bne =>
    rw [Mnemonic.packed, wordValues, pack_bne, ← row_opcode hw, ← row_funct3 hw, immB,
      show trunc 13 (sext _) = _ from BitVec.ofInt_toInt, encodeB_fields rfl]

/-! ### From a tuple to its word and back -/

/-- A packed word lies in its mnemonic's row (R97). -/
theorem packed_and_mask (x : Mnemonic) (v : Int × Int × Int) :
    x.packed v &&& (row x).mask = (row x).fixed :=
  pack_and_mask x v.1 v.2.1 v.2.2

/-- A tuple admitted by three operand kinds, taken apart. -/
theorem Mnemonic.admits_iff {x : Mnemonic} {k1 k2 k3 : OperandKind}
    (hk : (row x).kinds = [k1, k2, k3]) {a b c : Int} :
    x.Admits (a, b, c) ↔ k1.Admits a ∧ k2.Admits b ∧ k3.Admits c := by
  simp [Mnemonic.Admits, hk]

/-- A register row's word reads back as the indices packed into it (R73, R94). -/
theorem wordValues_packed_regRegReg {x : Mnemonic} {v : Int × Int × Int} (hv : x.Admits v)
    (hk : (row x).kinds = [.reg, .reg, .reg])
    (hplaces : (row x).places = [⟨2, 0, 5, 20⟩, ⟨1, 0, 5, 15⟩, ⟨0, 0, 5, 7⟩]) :
    wordValues (x.packed v) .add = v := by
  obtain ⟨hR, -⟩ := formatFieldsReadBack
  obtain ⟨a, b, c⟩ := v
  simp only [Mnemonic.admits_iff hk, admits_reg_iff] at hv
  obtain ⟨⟨rd, rfl⟩, ⟨rs1, rfl⟩, rs2, rfl⟩ := hv
  obtain ⟨-, hrs2, hrs1, -, hrd, -⟩ := hR _ _ _ _ _ _ _ (pack_regRegReg hplaces rd rs1 rs2).symm
  simp only [BitVec.extractLsb, Nat.reduceSub, Nat.reduceAdd] at hrs2 hrs1 hrd
  rw [wordValues, Mnemonic.packed, hrs2, hrs1, hrd]

/-- A packed tuple that strict mode accepts is read back from its word's fields (R94). -/
theorem wordValues_packed {x : Mnemonic} {v : Int × Int × Int} (hv : x.Admits v) :
    wordValues (x.packed v) x = v := by
  obtain ⟨-, hI, hS, hB⟩ := formatFieldsReadBack
  cases x with
  | lw =>
    obtain ⟨a, b, c⟩ := v
    rw [Mnemonic.admits_iff rfl, admits_reg_iff, admits_reg_iff] at hv
    obtain ⟨⟨rd, rfl⟩, hb, rs1, rfl⟩ := hv
    obtain ⟨himm, hrs1, -, hrd, -⟩ := hI _ _ _ _ _ _ (pack_lw rd b rs1).symm
    simp only [BitVec.extractLsb, Nat.reduceSub, Nat.reduceAdd] at himm hrs1 hrd
    rw [wordValues, Mnemonic.packed, immI, himm, hrs1, hrd, sext_trunc12 hb]
  | sw =>
    obtain ⟨a, b, c⟩ := v
    rw [Mnemonic.admits_iff rfl, admits_reg_iff, admits_reg_iff] at hv
    obtain ⟨⟨rs2, rfl⟩, hb, rs1, rfl⟩ := hv
    obtain ⟨himm, hrs2, hrs1, -⟩ := hS _ _ _ _ _ _ (pack_sw rs2 b rs1).symm
    simp only [BitVec.extractLsb, Nat.reduceSub, Nat.reduceAdd] at himm hrs1 hrs2
    rw [wordValues, Mnemonic.packed, immS, himm, hrs1, hrs2, sext_trunc12 hb]
  | add => exact wordValues_packed_regRegReg hv rfl rfl
  | xor => exact wordValues_packed_regRegReg hv rfl rfl
  | addi =>
    obtain ⟨a, b, c⟩ := v
    rw [Mnemonic.admits_iff rfl, admits_reg_iff, admits_reg_iff] at hv
    obtain ⟨⟨rd, rfl⟩, ⟨rs1, rfl⟩, hc⟩ := hv
    obtain ⟨himm, hrs1, -, hrd, -⟩ := hI _ _ _ _ _ _ (pack_addi rd rs1 c).symm
    simp only [BitVec.extractLsb, Nat.reduceSub, Nat.reduceAdd] at himm hrs1 hrd
    rw [wordValues, Mnemonic.packed, immI, himm, hrs1, hrd, sext_trunc12 hc]
  | sll => exact wordValues_packed_regRegReg hv rfl rfl
  | bne =>
    obtain ⟨a, b, c⟩ := v
    rw [Mnemonic.admits_iff rfl, admits_reg_iff, admits_reg_iff] at hv
    obtain ⟨⟨rs1, rfl⟩, ⟨rs2, rfl⟩, hfits, heven⟩ := hv
    obtain ⟨-, hrs2, hrs1, -⟩ := hB _ _ _ _ _ _ (pack_bne rs1 rs2 c).symm
    simp only [BitVec.extractLsb, Nat.reduceSub, Nat.reduceAdd] at hrs1 hrs2
    rw [wordValues, Mnemonic.packed, hrs1, hrs2, pack_bne, immB_encodeB, trunc13_bit0,
      sext_trunc13 hfits, heven, Int.sub_zero]

end Sys2Proof
end

section
/-!
PROOFS. Instructions and words: what an operand token is worth, the canonical spelling of an operand
tuple, and the decoder of words against the encoder (R94, U9; log entry 8).
-/
namespace Sys2Proof
open Machine

/-! ### What an operand token is worth -/

/-- A token of an operand kind's form, worth `v` (R85, R87). -/
def OperandKind.Spells : OperandKind → Token → Int → Prop
  | .reg, t, v => ∃ n : Nat, RegisterToken t n ∧ v = n
  | .imm12, t, v => ImmediateToken t v
  | .immB, t, v => ImmediateToken t v

/-- The register decoder answers an index exactly for a register token worth at most 31 (R85). -/
theorem regDecode_ok_iff {i : OperandIndex} {t : Token} {r : BitVec 5} :
    regDecode i t = .ok r ↔ RegisterToken t r.toNat := by
  rw [registerDecoderVerdict i t]
  constructor
  · rintro ⟨n, hn, hle⟩
    rwa [BitVec.toNat_ofNat, Nat.mod_eq_of_lt (by omega)]
  · intro h
    have hv := RegVerdict.index (i := i) r.toNat h (by omega)
    rwa [BitVec.ofNat_toNat, BitVec.setWidth_eq] at hv

/-- The range check passes exactly the admitted immediates (R92). -/
theorem strictCheck12_ok_iff {i : OperandIndex} {t : Token} {v : Int} :
    strictCheck12 i t v = .ok () ↔ OperandKind.imm12.Admits v := by
  rw [strictCheck12]
  split
  · exact iff_of_true rfl ‹_›
  · exact iff_of_false (by simp) ‹_›

/-- The range and evenness checks pass exactly the admitted displacements (R92). -/
theorem strictCheckB_ok_iff {i : OperandIndex} {t : Token} {v : Int} :
    strictCheckB i t v = .ok () ↔ OperandKind.immB.Admits v := by
  rw [strictCheckB]
  split
  · split
    · exact iff_of_true rfl ⟨‹_›, ‹_›⟩
    · exact iff_of_false (by simp) fun h => absurd h.2 ‹_›
  · exact iff_of_false (by simp) fun h => absurd h.1 ‹_›

/-- A parsed integer that is then checked is answered exactly when it is parsed and passes. -/
theorem bind_check_ok_iff {p : Except LineError Int} {check : Int → Except LineError Unit}
    {v : Int} :
    (p.bind fun u => (check u).map fun _ => u) = .ok v ↔ p = .ok v ∧ check v = .ok () := by
  cases p with
  | error e => simp [Except.bind]
  | ok u =>
    rw [Except.bind, Except.ok.injEq]
    cases hc : check u with
    | error e =>
      refine iff_of_false (by simp [Except.map]) ?_
      rintro ⟨rfl, hv⟩
      simp [hc] at hv
    | ok _ =>
      rw [Except.map, Except.ok.injEq]
      exact ⟨fun h => ⟨h, h ▸ hc⟩, And.left⟩

/-- An operand resolves under STRICT to the worth of its token, if its kind admits that. -/
theorem resolveOperand_strict_ok_iff {k : OperandKind} {i : OperandIndex} {t : Token} {v : Int} :
    resolveOperand .strict k i t = .ok v ↔ k.Spells t v ∧ k.Admits v := by
  cases k with
  | reg =>
    rw [resolveOperand_reg, admits_reg_iff]
    constructor
    · intro h
      cases hr : regDecode i t with
      | error e => simp [hr, Except.map] at h
      | ok r =>
        rw [hr] at h
        cases h
        exact ⟨⟨r.toNat, regDecode_ok_iff.1 hr, rfl⟩, r, rfl⟩
    · rintro ⟨⟨n, hn, rfl⟩, r, hr⟩
      obtain rfl : n = r.toNat := by exact_mod_cast hr
      rw [regDecode_ok_iff.2 hn]
      rfl
  | imm12 =>
    exact bind_check_ok_iff.trans (and_congr (immediateParserVerdict.1 i t v) strictCheck12_ok_iff)
  | immB =>
    exact bind_check_ok_iff.trans (and_congr (immediateParserVerdict.1 i t v) strictCheckB_ok_iff)

/-- A token worth an admitted value resolves to it under either policy (R92, R93). -/
theorem resolveOperand_of_spells {k : OperandKind} {t : Token} {v : Int} (mode : ImmMode)
    (i : OperandIndex) (ht : k.Spells t v) (hv : k.Admits v) :
    resolveOperand mode k i t = .ok v := by
  cases mode with
  | strict => exact resolveOperand_strict_ok_iff.2 ⟨ht, hv⟩
  | legacy =>
    cases k with
    | reg => exact resolveOperand_strict_ok_iff.2 ⟨ht, hv⟩
    | imm12 => exact immParse_of_immediateToken i ht
    | immB => exact immParse_of_immediateToken i ht

/-- The table's value of an operand token is its worth, if its kind admits that. -/
theorem operandValue_eq_some_iff {k : OperandKind} {t : Token} {v : Int} :
    operandValue k t = some v ↔ k.Spells t v ∧ k.Admits v := by
  rw [← resolveOperand_strict_ok_iff (i := 0)]
  have hresolve : operandValue k t = (resolveOperand .strict k 0 t).toOption := by cases k <;> rfl
  rw [hresolve]
  cases resolveOperand .strict k 0 t <;> simp [Except.toOption]

/-- The canonical token of an admitted value is worth it. -/
theorem operandToken_spells {k : OperandKind} {v : Int} (hv : k.Admits v) :
    k.Spells (operandToken k v) v := by
  cases k with
  | reg =>
    obtain ⟨r, rfl⟩ := admits_reg_iff.1 hv
    exact ⟨r.toNat, by simpa [operandToken] using regToken_registerToken r, rfl⟩
  | imm12 => exact immToken_immediateToken v
  | immB => exact immToken_immediateToken v

/-! ### The operand tuple of an instruction -/

/-- An instruction is its mnemonic and three operand tokens (R83). -/
theorem Instr.eq_instr (i : Instr) : ∃ x t1 t2 t3, i = Mnemonic.instr x t1 t2 t3 := by
  cases i with
  | lw a b c => exact ⟨.lw, a, b, c, rfl⟩
  | sw a b c => exact ⟨.sw, a, b, c, rfl⟩
  | add a b c => exact ⟨.add, a, b, c, rfl⟩
  | xor a b c => exact ⟨.xor, a, b, c, rfl⟩
  | addi a b c => exact ⟨.addi, a, b, c, rfl⟩
  | sll a b c => exact ⟨.sll, a, b, c, rfl⟩
  | bne a b c => exact ⟨.bne, a, b, c, rfl⟩

/-- The canonical spelling of a mnemonic's operand tuple. -/
def Mnemonic.spell (x : Mnemonic) (v : Int × Int × Int) : Instr :=
  match (row x).kinds with
  | [k1, k2, k3] => x.instr (operandToken k1 v.1) (operandToken k2 v.2.1) (operandToken k3 v.2.2)
  | _ => x.instr [] [] []

section
variable {x : Mnemonic} {k1 k2 k3 : OperandKind} (hk : (row x).kinds = [k1, k2, k3])
include hk

/-- The canonical spelling by the row's three operand kinds. -/
theorem Mnemonic.spell_eq (a b c : Int) :
    x.spell (a, b, c) = x.instr (operandToken k1 a) (operandToken k2 b) (operandToken k3 c) := by
  rw [Mnemonic.spell, hk]

/-- The operand tuple of three tokens is their values, if all have one. -/
theorem values_instr_eq_some_iff {t1 t2 t3 : Token} {a b c : Int} :
    (x.instr t1 t2 t3).values = some (a, b, c) ↔
      operandValue k1 t1 = some a ∧ operandValue k2 t2 = some b ∧ operandValue k3 t3 = some c := by
  simp only [Instr.values, Mnemonic.instr_mnemonic, Mnemonic.instr_operands, hk]
  cases operandValue k1 t1 <;> cases operandValue k2 t2 <;> cases operandValue k3 t3 <;> simp

end

@[simp] theorem Mnemonic.spell_mnemonic (x : Mnemonic) (v : Int × Int × Int) :
    (x.spell v).mnemonic = x := by
  cases x <;> rfl

/-- The canonical spelling of an admitted tuple has that tuple. -/
theorem Mnemonic.spell_values {x : Mnemonic} {v : Int × Int × Int} (hv : x.Admits v) :
    (x.spell v).values = some v := by
  obtain ⟨a, b, c⟩ := v
  obtain ⟨k1, k2, k3, hk⟩ := row_kinds x
  obtain ⟨ha, hb, hc⟩ := (Mnemonic.admits_iff hk).1 hv
  rw [Mnemonic.spell_eq hk, values_instr_eq_some_iff hk]
  exact ⟨operandValue_eq_some_iff.2 ⟨operandToken_spells ha, ha⟩,
    operandValue_eq_some_iff.2 ⟨operandToken_spells hb, hb⟩,
    operandValue_eq_some_iff.2 ⟨operandToken_spells hc, hc⟩⟩

/-- The tuple of an accepted instruction is admitted. -/
theorem admits_of_values {i : Instr} {v : Int × Int × Int} (h : i.values = some v) :
    i.mnemonic.Admits v := by
  obtain ⟨x, t1, t2, t3, rfl⟩ := i.eq_instr
  obtain ⟨a, b, c⟩ := v
  obtain ⟨k1, k2, k3, hk⟩ := row_kinds x
  obtain ⟨h1, h2, h3⟩ := (values_instr_eq_some_iff hk).1 h
  rw [Mnemonic.instr_mnemonic, Mnemonic.admits_iff hk]
  exact ⟨(operandValue_eq_some_iff.1 h1).2, (operandValue_eq_some_iff.1 h2).2,
    (operandValue_eq_some_iff.1 h3).2⟩

/-- The canonical form of an accepted instruction is the canonical spelling of its tuple. -/
theorem canonical_of_values {i : Instr} {v : Int × Int × Int} (h : i.values = some v) :
    i.canonical = i.mnemonic.spell v := by
  obtain ⟨k1, k2, k3, hk⟩ := row_kinds i.mnemonic
  rw [Instr.canonical, Mnemonic.spell, hk, h]

/-- The canonical spelling of an admitted tuple is well formed. -/
theorem Mnemonic.spell_wellFormed {x : Mnemonic} {v : Int × Int × Int} (hv : x.Admits v) :
    (x.spell v).wellFormed = true := by
  have hvalues := Mnemonic.spell_values hv
  simp [Instr.wellFormed, Instr.accepted, canonical_of_values hvalues, hvalues]

/-- A well-formed instruction is the canonical spelling of an admitted tuple. -/
theorem eq_spell_of_wellFormed {i : Instr} (h : i.wellFormed = true) :
    ∃ x v, Mnemonic.Admits x v ∧ i = x.spell v := by
  simp only [Instr.wellFormed, Instr.accepted, Bool.and_eq_true, decide_eq_true_eq,
    Option.isSome_iff_exists] at h
  obtain ⟨⟨v, hv⟩, hcanonical⟩ := h
  exact ⟨i.mnemonic, v, admits_of_values hv, by rw [← canonical_of_values hv, hcanonical]⟩

/-- An instruction's word is the one its tuple packs into. -/
theorem encode_eq_some_iff {i : Instr} {w : Word} :
    encode i = some w ↔ ∃ v, i.values = some v ∧ i.mnemonic.packed v = w := by
  simp [encode, Mnemonic.packed]

/-! ### The decoder of words -/

/-- The instruction of a word, read as a word of a row, spells the tuple in the word's fields. -/
theorem instrOfWord_eq_spell (w : Word) (x : Mnemonic) :
    instrOfWord w x = x.spell (wordValues w x) := by
  have hreg (r : BitVec 5) : regToken r = operandToken .reg r.toNat := by simp [operandToken]
  cases x <;> simp only [instrOfWord, rdToken, rs1Token, rs2Token, hreg] <;> rfl

/-- A word lies in a row if its bits under the mask are the match word. -/
theorem row_holds_iff {x : Mnemonic} {w : Word} :
    (row x).holds w = true ↔ w &&& (row x).mask = (row x).fixed := by
  rw [Row.holds, beq_iff_eq]

/-- The row that the decoder finds for a word holds it. -/
theorem row_of_find {x : Mnemonic} {w : Word}
    (h : (Mnemonic.all.find? fun m => (row m).holds w) = some x) :
    w &&& (row x).mask = (row x).fixed :=
  row_holds_iff.1 (List.find?_some (p := fun m => (row m).holds w) h)

/-- A word decodes to the tuple in its fields exactly when it lies in the row (R97). -/
theorem decodeWord_eq_some_iff {w : Word} {i : Instr} :
    decodeWord w = some i ↔
      ∃ x : Mnemonic, w &&& (row x).mask = (row x).fixed ∧ i = x.spell (wordValues w x) := by
  simp only [decodeWord, Option.map_eq_some_iff, instrOfWord_eq_spell]
  constructor
  · rintro ⟨x, hx, rfl⟩
    exact ⟨x, row_of_find hx, rfl⟩
  · rintro ⟨x, hx, rfl⟩
    refine ⟨x, ?_, rfl⟩
    cases hf : Mnemonic.all.find? fun m => (row m).holds w with
    | none => exact absurd (row_holds_iff.2 hx) (List.find?_eq_none.1 hf x x.mem_all)
    | some y => rw [row_unique hx (row_of_find hf)]

/-- A packed tuple that strict mode accepts decodes to its canonical spelling. -/
theorem decodeWord_packed {x : Mnemonic} {v : Int × Int × Int} (hv : x.Admits v) :
    decodeWord (x.packed v) = some (x.spell v) :=
  decodeWord_eq_some_iff.2 ⟨x, packed_and_mask x v, by rw [wordValues_packed hv]⟩

/-- The word of an accepted instruction decodes to the canonical spelling of its tuple. -/
theorem decodeWord_of_encode {i : Instr} {w : Word} (h : encode i = some w) :
    ∃ v, i.values = some v ∧ decodeWord w = some (i.mnemonic.spell v) := by
  obtain ⟨v, hv, rfl⟩ := encode_eq_some_iff.1 h
  exact ⟨v, hv, decodeWord_packed (admits_of_values hv)⟩

/-- Settles O8: each literal word decodes by computing. -/
theorem vectorWordsDecode : Obligations.VectorWordsDecode := by
  unfold Obligations.VectorWordsDecode
  decide

/-- Settles O9: a packed tuple is read back from its word. -/
theorem decodeInvertsEncode : Obligations.DecodeInvertsEncode := by
  refine ⟨fun i hi => ?_, fun i w h => ?_⟩
  · obtain ⟨x, v, hv, rfl⟩ := eq_spell_of_wellFormed hi
    exact ⟨x.packed v, encode_eq_some_iff.2 ⟨v, Mnemonic.spell_values hv, by simp⟩,
      decodeWord_packed hv⟩
  · obtain ⟨v, hv, hdecode⟩ := decodeWord_of_encode h
    rw [canonical_of_values hv]
    exact ⟨hdecode, Mnemonic.spell_wellFormed (admits_of_values hv)⟩

/-- Settles O10: the one word decodes to the canonical spelling of both, which has their mnemonic and
their tuple. -/
theorem strictTuplesAreInjective : Obligations.StrictTuplesAreInjective := by
  intro i j w hi hj
  obtain ⟨v, hv, hdecode⟩ := decodeWord_of_encode hi
  obtain ⟨u, hu, hdecode'⟩ := decodeWord_of_encode hj
  rw [hdecode, Option.some.injEq] at hdecode'
  have hmnemonic := congrArg Instr.mnemonic hdecode'
  have hvalues := congrArg Instr.values hdecode'
  rw [Mnemonic.spell_mnemonic, Mnemonic.spell_mnemonic] at hmnemonic
  rw [Mnemonic.spell_values (admits_of_values hv), Mnemonic.spell_values (admits_of_values hu)]
    at hvalues
  exact ⟨hmnemonic, by rw [hv, hu, hvalues]⟩

end Sys2Proof
end

section
/-!
PROOFS. The canonical line of an instruction: its bytes, its decomposition, and what the front end reads
(R30, R80, R83, R84); and the words of the seven rows as responses (R97).
-/
namespace Sys2Proof
open Machine

/-! ### The bytes of canonical tokens -/

/-- A byte that is no delimiter and that a line inside the interface may hold. -/
def plainByte (c : Byte) : Bool := !isDelimiter c && c != 0x0A#8 && c != 0x00#8

/-- A token that may stand in a line inside the interface, and is short enough for a canonical line to
stay under LINE_MAX. -/
structure PlainToken (t : Token) : Prop where
  nonempty : t ≠ []
  short : t.length ≤ 5
  plain : ∀ c ∈ t, plainByte c = true

/-- A plain byte is no delimiter, no line feed and no zero byte. -/
theorem plainByte_iff (c : Byte) :
    plainByte c = true ↔ ¬ Delimiter c ∧ c ≠ 0x0A#8 ∧ c ≠ 0x00#8 := by
  simp [plainByte, ← isDelimiter_iff, and_assoc]

/-- A digit is a plain byte. -/
theorem plainByte_of_digit {c : Byte} (hlo : 0x30 ≤ c.toNat) (hhi : c.toNat ≤ 0x39) :
    plainByte c = true := by
  obtain ⟨n, hn⟩ : ∃ n, c.toNat = n := ⟨_, rfl⟩
  obtain rfl : c = BitVec.ofNat 8 n := by simp [← hn]
  rw [hn] at hlo hhi
  interval_cases n <;> decide

/-- A delimiter is no line feed and no zero byte. -/
theorem Delimiter.ne_reserved {c : Byte} (h : Delimiter c) : c ≠ 0x0A#8 ∧ c ≠ 0x00#8 := by
  constructor <;> rintro rfl <;> simp [Delimiter] at h

/-- The mnemonics are plain tokens. -/
theorem Mnemonic.text_plain (x : Mnemonic) : PlainToken x.text := by
  cases x <;> exact ⟨by simp [Mnemonic.text], by simp [Mnemonic.text],
    by simp [Mnemonic.text, plainByte, isDelimiter]⟩

/-- A number below `10 ^ k` has at most `k` digits. -/
theorem digitsOnto_length_le (fuel n k : Nat) (acc : List Byte) (hk : 1 ≤ k) (hn : n < 10 ^ k) :
    (digitsOnto fuel n acc).length ≤ k + acc.length := by
  induction fuel generalizing n k acc with
  | zero => exact Nat.le_add_left _ _
  | succ fuel ih =>
    rw [digitsOnto]
    split
    · rw [List.length_cons]
      omega
    · next hdiv =>
      obtain ⟨m, rfl⟩ := Nat.exists_eq_add_of_le' hk
      have hm : 1 ≤ m := by
        rw [Nat.one_le_iff_ne_zero]
        rintro rfl
        omega
      have := ih (n / 10) m (digitByte (n % 10) :: acc) hm
        (Nat.div_lt_of_lt_mul (by rwa [pow_succ'] at hn))
      rw [List.length_cons] at this
      omega

/-- A decimal numeral of at most four digits, after a plain byte or alone, is a plain token. -/
theorem plainToken_decimal {n : Nat} (hn : n < 10 ^ 4) :
    PlainToken (decimal n) ∧ ∀ c, plainByte c = true → PlainToken (c :: decimal n) := by
  obtain ⟨hne, hdigits, -⟩ := decimal_numeral n
  have hlen : (decimal n).length ≤ 4 := digitsOnto_length_le _ n 4 [] (by decide) hn
  have hplain : ∀ c ∈ decimal n, plainByte c = true := fun c hc => by
    obtain ⟨hlo, hhi⟩ := hdigits c hc
    exact plainByte_of_digit hlo hhi
  exact ⟨⟨hne, by omega, hplain⟩, fun c hc => ⟨List.cons_ne_nil _ _, Nat.succ_le_succ hlen,
    List.forall_mem_cons.2 ⟨hc, hplain⟩⟩⟩

/-- The canonical token of a value of at most four digits is plain. -/
theorem immToken_plain {v : Int} (hv : v.natAbs < 10 ^ 4) : PlainToken (immToken v) := by
  obtain ⟨halone, hafter⟩ := plainToken_decimal hv
  rw [immToken]
  split
  · exact hafter _ (by decide)
  · exact halone

/-- The canonical token of an admitted value is plain. -/
theorem operandToken_plain {k : OperandKind} {v : Int} (hv : k.Admits v) :
    PlainToken (operandToken k v) := by
  cases k with
  | reg => exact (plainToken_decimal (by omega)).2 _ (by decide)
  | imm12 =>
    obtain ⟨hlo, hhi⟩ := hv
    exact immToken_plain (by omega)
  | immB =>
    obtain ⟨⟨hlo, hhi⟩, -⟩ := hv
    exact immToken_plain (by omega)

/-! ### The canonical line -/

/-- The separator runs after the second and the third operand in a canonical line (R83, R84). -/
def canonicalSeparators (x : Mnemonic) : Separator × Separator :=
  if needsStructure x then ([0x28#8], [0x29#8]) else ([0x2C#8, 0x20#8], [])

/-- The tokens of a canonical line, each with the separator run after it (R83). -/
def canonicalParts (x : Mnemonic) (t1 t2 t3 : Token) : List (Token × Separator) :=
  [(x.text, [0x20#8]), (t1, [0x2C#8, 0x20#8]), (t2, (canonicalSeparators x).1),
    (t3, (canonicalSeparators x).2)]

/-- The canonical line is its tokens and separator runs, one after the other. -/
theorem renderLine_instr (x : Mnemonic) (t1 t2 t3 : Token) :
    renderLine (x.instr t1 t2 t3) =
      (canonicalParts x t1 t2 t3).flatMap fun p => p.1 ++ p.2 := by
  rw [renderLine, Mnemonic.instr_operands, Mnemonic.instr_mnemonic]
  cases hx : needsStructure x <;> simp [canonicalParts, canonicalSeparators, hx]

section
variable {x : Mnemonic} {t1 t2 t3 : Token} (h1 : PlainToken t1) (h2 : PlainToken t2)
  (h3 : PlainToken t3)
include h1 h2 h3

/-- Every token of a canonical line is plain. -/
theorem canonicalParts_plain : ∀ p ∈ canonicalParts x t1 t2 t3, PlainToken p.1 := by
  simp [canonicalParts, x.text_plain, h1, h2, h3]

/-- The canonical line decomposes into its tokens and separator runs (R80). -/
theorem renderLine_splits :
    Splits (renderLine (x.instr t1 t2 t3)) [] (canonicalParts x t1 t2 t3) where
  whole := renderLine_instr x t1 t2 t3
  leadRun := by simp
  tokens p hp := by
    have hplain := canonicalParts_plain h1 h2 h3 p hp
    exact ⟨hplain.nonempty, fun c hc => ((plainByte_iff c).1 (hplain.plain c hc)).1⟩
  runs := by
    cases x <;> simp [canonicalParts, canonicalSeparators, needsStructure, Delimiter]
  inner := by
    cases x <;> simp [canonicalParts, canonicalSeparators, needsStructure]

/-- The canonical line is inside the interface (R30). -/
theorem renderLine_inInterface : InInterface (renderLine (x.instr t1 t2 t3)) := by
  have hs := renderLine_splits (x := x) h1 h2 h3
  have hbytes : ∀ c ∈ renderLine (x.instr t1 t2 t3), c ≠ 0x0A#8 ∧ c ≠ 0x00#8 := by
    intro c hc
    rw [renderLine_instr, List.mem_flatMap] at hc
    obtain ⟨p, hp, hc⟩ := hc
    obtain htoken | hrun := List.mem_append.1 hc
    · exact ((plainByte_iff c).1 ((canonicalParts_plain h1 h2 h3 p hp).plain c htoken)).2
    · exact (hs.runs p hp c hrun).ne_reserved
  refine ⟨?_, fun hmem => (hbytes _ hmem).1 rfl, fun hmem => (hbytes _ hmem).2 rfl⟩
  have hsep : (canonicalSeparators x).1.length ≤ 2 ∧ (canonicalSeparators x).2.length ≤ 1 := by
    cases x <;> decide
  have hx := x.text_plain.short
  have hshort1 := h1.short
  have hshort2 := h2.short
  have hshort3 := h3.short
  rw [renderLine_instr]
  simp only [canonicalParts, List.flatMap_cons, List.flatMap_nil, List.length_append,
    List.length_cons, List.length_nil]
  omega

/-- The parentheses of a canonical line of `lw` or `sw` stand where the structure check wants them
(R84). -/
theorem renderLine_hasStructure (hx : needsStructure x = true) :
    HasStructure (renderLine (x.instr t1 t2 t3)) (canonicalSeparators x).1
      (canonicalSeparators x).2 := by
  have hcount {t : Token} (ht : PlainToken t) {c : Byte} (hc : Delimiter c) : t.count c = 0 :=
    List.count_eq_zero.2 fun hmem => ((plainByte_iff c).1 (ht.plain c hmem)).1 hc
  have hopen : Delimiter 0x28#8 := by simp [Delimiter]
  have hclose : Delimiter 0x29#8 := by simp [Delimiter]
  rw [renderLine_instr]
  simp [HasStructure, canonicalParts, canonicalSeparators, hx, hcount, hopen, hclose, h1, h2, h3,
    x.text_plain]

end

/-- A line that begins with a mnemonic is no comment line. -/
theorem not_commentLine_of_mnemonic {line : Line} {x : Mnemonic} {sep : Separator}
    {ops : List (Token × Separator)} (hs : Splits line [] ((x.text, sep) :: ops)) :
    ¬ CommentLine line := by
  rw [hs.whole]
  cases x <;> simp [Mnemonic.text, commentLine_cons_of_not_blank]

/-- The canonical line of plain operand tokens is inside the interface and is read as the instruction
with those tokens. -/
theorem decodeLine_renderLine {x : Mnemonic} {t1 t2 t3 : Token} (h1 : PlainToken t1)
    (h2 : PlainToken t2) (h3 : PlainToken t3) :
    InInterface (renderLine (x.instr t1 t2 t3)) ∧
      decodeLine (renderLine (x.instr t1 t2 t3)) = .instr (x.instr t1 t2 t3) := by
  have hs := renderLine_splits (x := x) h1 h2 h3
  refine ⟨renderLine_inInterface h1 h2 h3, ?_⟩
  exact sameTokensSameInstruction _ _ _ _ _ _ _ _ _ _ (not_commentLine_of_mnemonic hs) hs
    fun hx => renderLine_hasStructure h1 h2 h3 ((needsStructure_iff x).2 hx)

/-- Settles O11: the tokens of a well-formed instruction are canonical and so plain. -/
theorem canonicalLineDecodes : Obligations.CanonicalLineDecodes := by
  intro i hi
  obtain ⟨x, ⟨a, b, c⟩, hv, rfl⟩ := eq_spell_of_wellFormed hi
  obtain ⟨k1, k2, k3, hk⟩ := row_kinds x
  obtain ⟨ha, hb, hc⟩ := (Mnemonic.admits_iff hk).1 hv
  rw [Mnemonic.spell_eq hk]
  exact decodeLine_renderLine (operandToken_plain ha) (operandToken_plain hb)
    (operandToken_plain hc)

/-! ### The words of the seven rows -/

/-- The operands of an accepted instruction pack into its word under either policy (R92, R93). -/
theorem tableWord_of_values {i : Instr} {v : Int × Int × Int} (mode : ImmMode)
    (h : i.values = some v) : tableWord mode i.mnemonic i.operands = .ok (i.mnemonic.packed v) := by
  obtain ⟨x, t1, t2, t3, rfl⟩ := i.eq_instr
  obtain ⟨a, b, c⟩ := v
  obtain ⟨k1, k2, k3, hk⟩ := row_kinds x
  simp only [values_instr_eq_some_iff hk, operandValue_eq_some_iff] at h
  obtain ⟨⟨h1, ha⟩, ⟨h2, hb⟩, h3, hc⟩ := h
  rw [Mnemonic.instr_mnemonic, Mnemonic.instr_operands, tableWord_eq_inOrder hk, inOrder_ok]
  exact ⟨a, b, c, resolveOperand_of_spells mode 1 h1 ha, resolveOperand_of_spells mode 2 h2 hb,
    resolveOperand_of_spells mode 3 h3 hc, rfl⟩

/-- An accepted instruction's meaning answers the word of its tuple, under either policy. -/
theorem exec_of_values {s : State} {line : Line} {rest : List HostOp} {i : Instr}
    {v : Int × Int × Int} (h : s.pending = .submit line :: rest) (hv : i.values = some v) :
    exec i s = .next (answered s line rest (.word (i.mnemonic.packed v))) := by
  rw [exec_eq_respond, respond_answered _ _ h, tableWord_of_values s.immMode hv, outcomeResponse]

/-- A word that decodes is the packed tuple of the well-formed instruction that it decodes to. -/
theorem packed_of_decodeWord {w : Word} {i : Instr} (h : decodeWord w = some i) :
    i.wellFormed = true ∧ ∃ v, i.values = some v ∧ i.mnemonic.packed v = w := by
  obtain ⟨x, hx, rfl⟩ := decodeWord_eq_some_iff.1 h
  have hv := wordValues_admits w x
  refine ⟨Mnemonic.spell_wellFormed hv, wordValues w x, Mnemonic.spell_values hv, ?_⟩
  rw [Mnemonic.spell_mnemonic, packed_wordValues hx]

/-- The host's fetch of a word that decodes issues the canonical line of its instruction. -/
theorem withFetchWord_of_decode {s : State} {nbits w : Nat} {i : Instr}
    (h : decodeTableWord nbits w = some i) :
    s.withFetchWord nbits w = { s with pending := .submit (renderLine i) :: s.pending } := by
  rw [State.withFetchWord, submitWord, h]

/-- Settles O12: the step reads the canonical line as the decoded instruction, whose tuple packs into
the word; the words that decode are those of the rows. -/
theorem everyTableWordIsEmitted : Obligations.EveryTableWordIsEmitted := by
  refine ⟨fun s w i hw hd => ?_, fun w => ?_⟩
  · have hdecode : decodeWord (BitVec.ofNat 32 w) = some i := by
      rwa [decodeTableWord, if_pos (le_refl 32), Nat.mod_eq_of_lt hw] at hd
    obtain ⟨hwf, v, hv, hpacked⟩ := packed_of_decodeWord hdecode
    obtain ⟨hi, hline⟩ := canonicalLineDecodes i hwf
    rw [withFetchWord_of_decode hd]
    have hstep := stepRunsTheDecodedInstruction
      { s with pending := .submit (renderLine i) :: s.pending } _ _ i rfl hi hline
    refine ⟨hstep, ?_⟩
    rw [hstep, exec_of_values rfl hv, hpacked]
    rfl
  · simp only [Option.isSome_iff_exists, decodeWord_eq_some_iff]
    exact ⟨fun ⟨_, x, hx, _⟩ => ⟨x, hx⟩, fun ⟨x, hx⟩ => ⟨_, x, hx, rfl⟩⟩

end Sys2Proof
end
